-- ==== Sys2Proof/Word.lean ====
section
/-! DEFINITION. The words of QHSD: the widths of its registers, its ports and the fields of a combined state byte
(spec/00_scope.md R6, R7, R9; spec/10_state.md R20, R22). -/

namespace Sys2Proof

/-- Eight bits: STATE, SENS, the response `rsp` and a ROM cell (R20, R29, R40). -/
abbrev Byte := BitVec 8

/-- A command word on port `cmd` (R7, R60). -/
abbrev Command := BitVec 16

/-- A value of the millisecond clock: port `now` and register LAST. Its width is `W_T` = 32 (R6, R28; log entry 10). -/
abbrev Time := BitVec 32

/-- The 2-bit input symbol, pin1 in bit 1 and pin2 in bit 0 (R80). -/
abbrev Symbol := BitVec 2

end Sys2Proof
end

