-- ==== Sys2Proof/Config.lean ====
section
/-! DEFINITION. What an implementation fixes (spec/00_scope.md R6) and the free values (spec/10_state.md R31).
The transition table, the other parameter of R6, stands in Sys2Proof/Machine/Rom.lean. -/

namespace Sys2Proof.Config

/-- `N_STATES`: the number of decoder states (R6). -/
def stateCount : Nat := 6

/-- `N_SYM`: the number of input symbols (R6). -/
def symbolCount : Nat := 4

/-- `SENS_RESET`: the value of SENS after a hardware reset (R6, R160). -/
def sensReset : Byte := 100

/-- FREE VALUE (log entry 3): what STATE holds after the n-th power loss. R31: nothing is retained. -/
opaque lostState : Nat → Byte

/-- FREE VALUE (log entry 3): what SENS holds after the n-th power loss. -/
opaque lostSens : Nat → Byte

/-- FREE VALUE (log entry 3): what LAST holds after the n-th power loss. -/
opaque lostLast : Nat → Time

/-- FREE VALUE (log entry 3): what the latch rsp_valid holds after the n-th power loss. -/
opaque lostRspValid : Nat → Bool

/-- FREE VALUE (log entry 3): what the latch rsp holds after the n-th power loss. -/
opaque lostRsp : Nat → Byte

end Sys2Proof.Config
end

