-- ==== Sys2Proof/Syntax.lean ====
section
/-! DEFINITION. The commands of QHSD (spec/30_encoding.md R61, R64) and the lines of its assembler (R68, R69). -/

namespace Sys2Proof

/-- A command, one constructor per row of spec/opcode_table.json. Operand types admit exactly the values a command word
can carry (R63): a pin level is one bit (R141), a sensitivity eight. The clock value of SAMPLE is no operand of the word:
it is on port `now` (R60, R70). -/
inductive Instr where
  /-- SAMPLE (R85): `a` is pin1Level, `b` is pin2Level. -/
  | sample (a b : Bool)
  /-- SETSENS (R120): `v` is the new sensitivity. -/
  | setsens (v : Byte)
  /-- GETSENS (R121). -/
  | getsens
  /-- INIT (R122): `v` is the sensitivity of the constructed decoder. -/
  | init (v : Byte)
deriving DecidableEq, Repr

/-- One line of assembly (R68, R69). Operands are numbers as written, not yet checked against their ranges. -/
inductive AsmLine where
  /-- `SAMPLE a, b @ t`. -/
  | sample (a b t : Nat)
  /-- `SETSENS s`. -/
  | setsens (v : Nat)
  /-- `GETSENS`. -/
  | getsens
  /-- `INIT s`, or `INIT` with no operand. -/
  | init (v : Option Nat)
  /-- The pseudo-instruction `SAMPLESYM k @ t` (R69). -/
  | samplesym (k t : Nat)
deriving DecidableEq, Repr

end Sys2Proof
end

