-- ==== Sys2Proof/WellFormed.lean ====
section
/-! DEFINITION. Which terms are well formed: every command by its operand types (spec/30_encoding.md R63,
spec/60_exceptions.md R141), and an assembly line when its operands are in range (R68, R69). -/

namespace Sys2Proof

/-- A command's operands are within the ranges of R63. The operand types admit no other value, as R66 quotes the source
("the input type itself incapable of representing out-of-range values"), so this holds of every command. -/
def Instr.wellFormed : Instr → Bool
  | .sample a b => a.toNat ≤ 1 && b.toNat ≤ 1
  | .setsens v => v.toNat ≤ 255
  | .getsens => true
  | .init v => v.toNat ≤ 255

/-- The operands of an assembly line are in the ranges R68 and R69 give; outside them no word is produced. -/
def AsmLine.wellFormed : AsmLine → Bool
  | .sample a b t => a ≤ 1 && b ≤ 1 && t < 2 ^ 32
  | .setsens v => v ≤ 255
  | .getsens => true
  | .init none => true
  | .init (some v) => v ≤ 255
  | .samplesym k t => k ≤ 3 && t < 2 ^ 32

end Sys2Proof
end

