-- ==== Sys2Proof/Decode.lean ====
section
/-! DEFINITION. Decoding a command word, and encoding a command (spec/30_encoding.md R60 to R67). -/

namespace Sys2Proof

/-- Why a word is illegal: which format's reserved bits are not all 0 (R65, R66). -/
inductive DecodeError where
  /-- op = 0b00 (format S) with one of bits 13:2 set. -/
  | reservedBitsS
  /-- op = 0b01 or 0b11 (format I8) with one of bits 13:8 set. -/
  | reservedBitsI8
  /-- op = 0b10 (format N) with one of bits 13:0 set. -/
  | reservedBitsN
deriving DecidableEq, Repr

/-- The opcode field, bits 15:14 (R60). -/
def opField (w : Command) : BitVec 2 := w.extractLsb' 14 2

/-- The reserved bits 13:2 of format S (R61, R65). -/
def reservedS (w : Command) : BitVec 12 := w.extractLsb' 2 12

/-- The reserved bits 13:8 of format I8 (R61, R65). -/
def reservedI8 (w : Command) : BitVec 6 := w.extractLsb' 8 6

/-- The reserved bits 13:0 of format N (R61, R65). -/
def reservedN (w : Command) : BitVec 14 := w.extractLsb' 0 14

/-- The pin level `a` = cmd[1] (R63). -/
def pin1Field (w : Command) : Bool := w.getLsbD 1

/-- The pin level `b` = cmd[0] (R63). -/
def pin2Field (w : Command) : Bool := w.getLsbD 0

/-- The sensitivity `s` = cmd[7:0] (R63). -/
def sensField (w : Command) : Byte := w.extractLsb' 0 8

/-- The command a word stands for, or the reason it is illegal. Only `op` and the reserved bits decide (R67). -/
def decode (w : Command) : Except DecodeError Instr :=
  if opField w = 0b00#2 then
    if reservedS w = 0 then .ok (.sample (pin1Field w) (pin2Field w)) else .error .reservedBitsS
  else if opField w = 0b01#2 then
    if reservedI8 w = 0 then .ok (.setsens (sensField w)) else .error .reservedBitsI8
  else if opField w = 0b10#2 then
    if reservedN w = 0 then .ok .getsens else .error .reservedBitsN
  else
    if reservedI8 w = 0 then .ok (.init (sensField w)) else .error .reservedBitsI8

/-- The word of a command: the fields of its format, most significant first, reserved bits 0 (R61). -/
def encode : Instr → Command
  | .sample a b => 0b00#2 ++ 0#12 ++ BitVec.ofBool a ++ BitVec.ofBool b
  | .setsens v => 0b01#2 ++ 0#6 ++ v
  | .getsens => 0b10#2 ++ 0#14
  | .init v => 0b11#2 ++ 0#6 ++ v

/-- One row of the opcode table: a word is the row's when its bits under `mask` are `bits` (R64). -/
structure OpcodeRow where
  mnemonic : String
  bits : Command
  mask : Command
deriving DecidableEq, Repr

/-- The row of each command (R64, spec/opcode_table.json). -/
def opcodeRow : Instr → OpcodeRow
  | .sample _ _ => ⟨"SAMPLE", 0x0000, 0xFFFC⟩
  | .setsens _ => ⟨"SETSENS", 0x4000, 0xFF00⟩
  | .getsens => ⟨"GETSENS", 0x8000, 0xFFFF⟩
  | .init _ => ⟨"INIT", 0xC000, 0xFF00⟩

/-- The whole opcode table, in its order (R64). -/
def opcodeTable : List OpcodeRow :=
  [opcodeRow (.sample false false), opcodeRow (.setsens 0), opcodeRow .getsens, opcodeRow (.init 0)]

/-- The command word whose low `nbits` bits are those of `w` and whose other bits are 0. -/
def tableWord (nbits w : Nat) : Command := BitVec.ofNat 16 (w % 2 ^ nbits)

/-- What the decoder reads from the bits `w` of a table row. A command is 16 bits and no other length exists (R60). -/
def decodeTableWord (nbits w : Nat) : Option Instr :=
  if nbits ≤ 16 then (decode (tableWord nbits w)).toOption else none

end Sys2Proof
end

