-- ==== Sys2Proof/Machine/State.lean ====
section
/-! DEFINITION. The state of one QHSD instance (spec/10_state.md R20 to R31), what its host drives (spec/00_scope.md
R7), and the reasons a step stops. -/

namespace Sys2Proof.Machine

/-- One request: the word on port `cmd` and the clock value on port `now` while `req` pulses (R7, R60, R70). -/
structure Request where
  cmd : Command
  now : Time
deriving DecidableEq, Repr

/-- What the host drives during one step (R7; log entry 1). -/
inductive HostEvent where
  /-- Neither `req` nor `rst`: the block is idle (R150). -/
  | quiet
  /-- One `req` pulse presents one command (R7, R8). -/
  | request (r : Request)
  /-- A second request arrives while the first is in progress (R167; log entry 8). -/
  | overlap (inProgress second : Request)
  /-- `rst` is asserted, with these commands presented together with it (R144, R160; log entry 9). -/
  | reset (presented : List Request)
  /-- The supply is lost and comes back (R31; log entry 3). -/
  | powerLoss
deriving DecidableEq, Repr

/-- The machine. The first five fields are what R20 and R29 give one instance; the last three are the model's own. -/
structure State where
  /-- STATE, the combined state byte: id in bits 3:0, direction flag in bits 5:4, bits 7:6 zero (R22). -/
  stateReg : Byte
  /-- SENS, the sensitivity (R27). -/
  sens : Byte
  /-- LAST, the time of the last completed step (R28). -/
  last : Time
  /-- The output latch rsp_valid (R29). -/
  rspValid : Bool
  /-- The output latch rsp (R29). -/
  rsp : Byte
  /-- MODEL's own: the value on port `now` at the request being performed (R70; log entry 2). -/
  now : Time
  /-- MODEL's own: what the host drives in the steps to come, the next one first (D14; log entry 1). -/
  host : List HostEvent
  /-- MODEL's own: how many power losses have drawn free values (log entry 3). -/
  draws : Nat
deriving DecidableEq, Repr

/-- Why a step stops with a fault. QHSD itself raises no exception (R140). -/
inductive Fault where
  /-- Raised by SAMPLE when STATE[3:0] is above 5, so that the ROM address is above 23 (R48, I10; log entry 6). No reset,
  INIT or table cell leaves such a STATE; only the free value after a power loss can. SAFE: the model stops. -/
  | romAddressUnused (addr : Nat)
deriving DecidableEq, Repr

/-- Why a step is refused (R11): no meaning is given, and nothing after it can be claimed. -/
inductive Refusal where
  /-- Raised by `exec` for an instruction without a meaning. No arm raises it. SAFE: the model stops. -/
  | notModelled (mnemonic : String)
  /-- Raised by a request whose word matches no row of the opcode table (R66, D4; log entry 7). SAFE: the model stops. -/
  | illegalWord (w : Command) (why : DecodeError)
  /-- Raised by a request that overlaps one in progress (R167, D15; log entry 8). SAFE: the model stops. -/
  | overlappingRequests
  /-- Raised by SAMPLE over a table that breaks a clause of R43 (log entry 5). SAFE: the model stops. -/
  | tableNotAdmitted
deriving DecidableEq, Repr

/-- The outcome of a step of this machine (R11). -/
abbrev Outcome := Host.Outcome State Fault Refusal

/-- The machine right after `rst` (R160), with nothing driven by the host yet (log entries 1, 2 and 3). -/
def State.reset : State where
  stateReg := 0x00
  sens := Config.sensReset
  last := 0
  rspValid := false
  rsp := 0x00
  now := 0
  host := []
  draws := 0

end Sys2Proof.Machine
end

