-- ==== Sys2Proof/Machine/Ops.lean ====
section
/-! DEFINITION. The named operations on the registers, the response latches and the ports (spec/00_scope.md R10).
QHSD has no exception entry and no exception return (spec/60_exceptions.md R140, R142), so none stands here. -/

namespace Sys2Proof.Machine

/-- `STATE <- v`. -/
def State.writeState (s : State) (v : Byte) : State := { s with stateReg := v }

/-- `SENS <- v`. -/
def State.writeSens (s : State) (v : Byte) : State := { s with sens := v }

/-- `LAST <- v`. -/
def State.writeLast (s : State) (v : Time) : State := { s with last := v }

/-- `respond(v)` and `respond(none)` of R10. With none, only rsp_valid is driven; rsp keeps its value (R161; log entry
12). -/
def State.respond (s : State) : Option Byte → State
  | some v => { s with rspValid := true, rsp := v }
  | none => { s with rspValid := false }

/-- A request's clock value stands on port `now` (R70; log entry 2). -/
def State.presentNow (s : State) (t : Time) : State := { s with now := t }

/-- What the host drives from the next step on (log entry 1). -/
def State.setHost (s : State) (h : List HostEvent) : State := { s with host := h }

/-- The hardware reset of R160. -/
def State.resetBlock (s : State) : State :=
  { s with stateReg := 0x00, sens := Config.sensReset, last := 0, rspValid := false, rsp := 0x00 }

/-- A power loss: nothing is retained (R31). Every register and latch takes a free value (log entry 3). -/
def State.losePower (s : State) : State :=
  { s with
    stateReg := Config.lostState s.draws
    sens := Config.lostSens s.draws
    last := Config.lostLast s.draws
    rspValid := Config.lostRspValid s.draws
    rsp := Config.lostRsp s.draws
    draws := s.draws + 1 }

end Sys2Proof.Machine
end

