-- ==== Sys2Proof/Machine/Configuration.lean ====
section
/-! DEFINITION. SETSENS, GETSENS and INIT (spec/42_configuration.md R120 to R122). -/

namespace Sys2Proof.Machine

/-- SETSENS: write the sensitivity register (R120). -/
def execSetsens (v : Byte) (s : State) : Outcome := .next ((s.writeSens v).respond none)

/-- GETSENS: read the sensitivity register (R121). -/
def execGetsens (s : State) : Outcome := .next (s.respond (some s.sens))

/-- INIT: construct the decoder core (R122). -/
def execInit (v : Byte) (s : State) : Outcome :=
  .next ((((s.writeState 0x00).writeSens v).writeLast 0).respond none)

end Sys2Proof.Machine
end

