-- ==== Sys2Proof/Machine/Flags.lean ====
section
/-! DEFINITION. The fields of the combined state byte and the one flag of QHSD, the direction flag
(spec/10_state.md R22, R23, R25; spec/40_sample_decode.md R83, R84). -/

namespace Sys2Proof.Machine

/-- The six decoder states, in the order that gives their ids (R23). -/
inductive DecoderState where
  | start
  | ccwBegin
  | cwBegin
  | startMirror
  | cwBeginMirror
  | ccwBeginMirror
deriving DecidableEq, Repr

/-- The numeric id of a decoder state (R23). -/
def stateId : DecoderState → BitVec 4
  | .start => 0
  | .ccwBegin => 1
  | .cwBegin => 2
  | .startMirror => 3
  | .cwBeginMirror => 4
  | .ccwBeginMirror => 5

/-- The direction flag (R22, R25). `both` is the encoding 0b11, which no table cell holds (R84). -/
inductive Direction where
  | none
  | cw
  | ccw
  | both
deriving DecidableEq, Repr

/-- The two bits of a direction (R22). -/
def directionBits : Direction → BitVec 2
  | .none => 0b00
  | .cw => 0b01
  | .ccw => 0b10
  | .both => 0b11

/-- The direction two bits stand for (R22, R84). -/
def directionOfBits (d : BitVec 2) : Direction :=
  if d = 0b00#2 then .none else if d = 0b01#2 then .cw else if d = 0b10#2 then .ccw else .both

/-- A combined byte `{0b00, dir[1:0], id[3:0]}` (R12, R22). -/
def combined (d : Direction) (q : DecoderState) : Byte := 0b00#2 ++ directionBits d ++ stateId q

/-- The field `id`, bits 3:0 (R22). -/
def idField (b : Byte) : BitVec 4 := b.extractLsb' 0 4

/-- The field `dir`, bits 5:4 (R22). -/
def dirField (b : Byte) : BitVec 2 := b.extractLsb' 4 2

/-- Bits 7:6, always 0 in a value the table holds (R22). -/
def topField (b : Byte) : BitVec 2 := b.extractLsb' 6 2

/-- The raw result of a direction: +1, -1 or 0 (R83). The unreachable 0b11 gives 0 (R84; log entry 11). -/
def rawOf : Direction → Int
  | .none => 0
  | .cw => 1
  | .ccw => -1
  | .both => 0

/-- `dirToRaw(STATE[5:4])` of R85: the raw result a combined byte's direction flag stands for. -/
def rawOfByte (b : Byte) : Int := rawOf (directionOfBits (dirField b))

end Sys2Proof.Machine
end

