-- ==== Sys2Proof/Machine/Classifier.lean ====
section
/-! DEFINITION. The speed-tier classifier that a SAMPLE invokes when a step completes
(spec/41_speed_classifier.md R100 to R107). -/

namespace Sys2Proof.Machine

/-- `elapsed = now -_W_T LAST`, modulo 2^32 (R100, R101). -/
def elapsed (now last : Time) : Time := now - last

/-- `T_fast = SENS div 2`, zero-extended (R102). -/
def fastThreshold (sens : Byte) : Time := (sens / 2#8).setWidth 32

/-- `T_med = SENS`, zero-extended (R102). -/
def mediumThreshold (sens : Byte) : Time := sens.setWidth 32

/-- The speed tiers of R12. -/
inductive SpeedTier where
  | fastest
  | medium
  | slow
deriving DecidableEq, Repr

/-- The tier of an elapsed time: strict unsigned comparisons with the two thresholds (R103). -/
def tierOf (e : Time) (sens : Byte) : SpeedTier :=
  if e < fastThreshold sens then .fastest else if e < mediumThreshold sens then .medium else .slow

/-- The multiplier of a tier (R103). -/
def multiplier : SpeedTier → Int
  | .fastest => 3
  | .medium => 2
  | .slow => 1

/-- The classifier function of R104: the scaled result and the new LAST. -/
def speedScale (raw : Int) (now last : Time) (sens : Byte) : Int × Time :=
  (raw * multiplier (tierOf (elapsed now last) sens), now)

/-- The result as it stands on port `rsp`: `sext_8` of the 3-bit result (R7, R105; log entry 14). -/
def resultByte (result : Int) : Byte := (BitVec.ofInt 3 result).signExtend 8

end Sys2Proof.Machine
end

