-- ==== Sys2Proof/Machine/Operands.lean ====
section
/-! DEFINITION. The operand forms (spec/30_encoding.md R63): the symbol of a SAMPLE and the ROM address it forms
(spec/40_sample_decode.md R80, R81; spec/20_memory.md R41). The sensitivity operand of SETSENS and INIT is taken as it
is (R63), so it needs no form of its own. -/

namespace Sys2Proof.Machine

/-- The symbol `{a, b}`: pin1 in bit 1, pin2 in bit 0 (R80). -/
def symbol (a b : Bool) : Symbol := BitVec.ofBool a ++ BitVec.ofBool b

/-- The row of the table: `id = STATE[3:0]`; a stale direction flag is no part of it (R81). -/
def rowIndex (stateReg : Byte) : Nat := (idField stateReg).toNat

/-- The flat ROM address `id * 4 + sym` (R41). -/
def romAddress (id : Nat) (sym : Symbol) : Nat := id * Config.symbolCount + sym.toNat

end Sys2Proof.Machine
end

