-- ==== Sys2Proof/Machine/Rom.lean ====
section
/-! DEFINITION. The one memory of QHSD, the read-only transition ROM, and the constraints a transition table must meet
(spec/20_memory.md R40 to R48). No operation writes it (R44), so it is a constant and no part of State (R20; log entry
15). -/

namespace Sys2Proof.Machine

/-- A memory: (address, byte) pairs, addresses strictly rising; an address not listed does not exist. -/
abbrev Memory := List Host.Cell

/-- The canonical form: addresses strictly rising. An unlisted address reads as nothing, so no entry can repeat it. -/
def Memory.wf : Memory → Bool
  | [] => true
  | [_] => true
  | c :: d :: m => decide (c.1 < d.1) && Memory.wf (d :: m)

/-- `MemRead(addr, 1)`: the byte at an address, or nothing where the memory has no such address (R10, R41, R48). -/
def Memory.read : Memory → Nat → Option Byte
  | [], _ => none
  | c :: m, addr => if c.1 = addr then some c.2 else Memory.read m addr

/-- A row of the table, the cells of one decoder state for symbols 00, 01, 10 and 11 in turn (R41, R42). -/
def romRow (q : DecoderState) (c00 c01 c10 c11 : Byte) : Memory :=
  [(romAddress (stateId q).toNat 0b00, c00), (romAddress (stateId q).toNat 0b01, c01),
   (romAddress (stateId q).toNat 0b10, c10), (romAddress (stateId q).toNat 0b11, c11)]

/-- The transition table TT of R42, cell by cell (log entry 4). -/
def transitionRom : Memory :=
  romRow .start
    (combined .none .startMirror) (combined .none .cwBegin) (combined .none .ccwBegin) (combined .none .start)
  ++ romRow .ccwBegin
    (combined .ccw .startMirror) (combined .none .start) (combined .none .ccwBegin) (combined .none .start)
  ++ romRow .cwBegin
    (combined .cw .startMirror) (combined .none .cwBegin) (combined .none .start) (combined .none .start)
  ++ romRow .startMirror
    (combined .none .startMirror) (combined .none .ccwBeginMirror) (combined .none .cwBeginMirror)
    (combined .none .start)
  ++ romRow .cwBeginMirror
    (combined .none .startMirror) (combined .none .startMirror) (combined .none .cwBeginMirror) (combined .cw .start)
  ++ romRow .ccwBeginMirror
    (combined .none .startMirror) (combined .none .ccwBeginMirror) (combined .none .startMirror) (combined .ccw .start)

/-- The decoder state is one of the two resting states. -/
def isRestId (id : BitVec 4) : Bool := id == stateId .start || id == stateId .startMirror

/-- The direction of the move a `…BEGIN` state belongs to; a resting state belongs to none (R23). -/
def beginDirection (id : BitVec 4) : Direction :=
  if id = stateId .cwBegin ∨ id = stateId .cwBeginMirror then .cw
  else if id = stateId .ccwBegin ∨ id = stateId .ccwBeginMirror then .ccw
  else .none

/-- The symbol is one an encoder rests at: 00 or 11 (R12). -/
def isRestSymbol (sym : Symbol) : Bool := sym == 0b00 || sym == 0b11

/-- The resting state of a resting symbol: START at 11, START_MIRROR at 00 (R23, R43 clause 6). -/
def restId (sym : Symbol) : BitVec 4 := if sym = 0b11 then stateId .start else stateId .startMirror

/-- The resting symbol a move in this state began at: 00 for the mirror states, which are on the path that starts from
the other resting symbol, and 11 for the others (R12, R23). -/
def homeSymbol (id : BitVec 4) : Symbol :=
  if id = stateId .startMirror ∨ id = stateId .cwBeginMirror ∨ id = stateId .ccwBeginMirror then 0b00 else 0b11

/-- The first intermediate symbol of the move a `…BEGIN` state belongs to (R23). -/
def entrySymbol (id : BitVec 4) : Symbol :=
  if id = stateId .ccwBegin ∨ id = stateId .cwBeginMirror then 0b10 else 0b01

/-- `p` holds of every cell of the table: its row, its symbol, its byte. A missing cell fails. -/
def Memory.allCells (rom : Memory) (p : BitVec 4 → Symbol → Byte → Bool) : Bool :=
  (List.range Config.stateCount).all fun id =>
    (List.range Config.symbolCount).all fun sym =>
      match rom.read (id * Config.symbolCount + sym) with
      | none => false
      | some c => p (BitVec.ofNat 4 id) (BitVec.ofNat 2 sym) c

/-- The cell of a row and symbol satisfies `p`. -/
def Memory.cellIs (rom : Memory) (q : DecoderState) (sym : Symbol) (p : Byte → Bool) : Bool :=
  ((rom.read (romAddress (stateId q).toNat sym)).map p).getD false

/-- The raw results a table gives for a sequence of symbols from a row, or nothing where a cell is missing. -/
def Memory.rawsAlong (rom : Memory) : Nat → List Symbol → Option (List Int)
  | _, [] => some []
  | id, sym :: rest =>
    match rom.read (romAddress id sym) with
    | none => none
    | some c => (rom.rawsAlong (rowIndex c) rest).map (rawOfByte c :: ·)

/-- The decoder state a table reaches along a sequence of symbols from a row, or nothing where a cell is missing. -/
def Memory.idAlong (rom : Memory) : Nat → List Symbol → Option Nat
  | id, [] => some id
  | id, sym :: rest =>
    match rom.read (romAddress id sym) with
    | none => none
    | some c => rom.idAlong (rowIndex c) rest

/-- The table has exactly the 24 addresses 0..23 (R40, R48). -/
def Memory.shapeOk (rom : Memory) : Bool :=
  rom.map Prod.fst == List.range (Config.stateCount * Config.symbolCount)

/-- A combined byte is legal: id in 0..5, direction not 0b11, bits 7:6 zero (R24, R43 clause 1). -/
def legalByte (c : Byte) : Bool :=
  decide ((idField c).toNat < Config.stateCount) && dirField c != 0b11#2 && topField c == 0

/-- R43 clause 1, closure. -/
def Memory.closed (rom : Memory) : Bool := rom.allCells fun _ _ c => legalByte c

/-- R43 clause 2: a flag only on a cell that goes from a `…BEGIN` state to a resting state. -/
def Memory.flagsOnArrival (rom : Memory) : Bool :=
  rom.allCells fun id _ c => dirField c == 0 || (!isRestId id && isRestId (idField c))

/-- R43 clause 3, rejection of reversal, after any history. A resting symbol always leads to its own resting state, an
intermediate symbol never leaves the side of the resting symbol the move began at, and back at that symbol there is no
flag. So a sequence that leaves a resting symbol and comes back to it, through any intermediate symbols, ends in its
resting state and gives 0 on the way (log entry 5). 00, 10, 00 from START is the source's own example. -/
def Memory.rejectsReversal (rom : Memory) : Bool :=
  (rom.allCells fun id sym c =>
    if isRestSymbol sym then idField c == restId sym && (sym != homeSymbol id || dirField c == 0)
    else homeSymbol (idField c) == homeSymbol id)
  && rom.rawsAlong 0 [0b00, 0b10, 0b00] == some [0, 0, 0]

/-- R43 clause 4, two consistent readings: a `…BEGIN` state is entered only on its own intermediate symbol, and only from
a resting state or from itself; a flag stands only on a resting symbol, with the direction of its `…BEGIN` row (log
entry 5). -/
def Memory.needsTwoReadings (rom : Memory) : Bool :=
  rom.allCells fun id sym c =>
    (isRestId (idField c) || ((isRestId id || idField c == id) && sym == entrySymbol (idField c)))
    && (dirField c == 0 || (isRestSymbol sym && directionOfBits (dirField c) == beginDirection id))

/-- The four clean detents, one resting symbol to the other through one intermediate symbol, with their signs (R87). -/
def cleanDetents : List (Symbol × Symbol × Symbol × Int) :=
  [(0b11, 0b01, 0b00, 1), (0b00, 0b10, 0b11, 1), (0b11, 0b10, 0b00, -1), (0b00, 0b01, 0b11, -1)]

/-- R43 clause 5, in the per-detent form of C2: from every state, once a resting symbol has been read, each clean detent
from it gives 0 and then its sign; and from START the source's two Gray paths give 0, 0, n, 0, n (log entry 5). -/
def Memory.followsGrayPaths (rom : Memory) : Bool :=
  ((List.range Config.stateCount).all fun id =>
    cleanDetents.all fun p => (rom.rawsAlong id [p.1, p.2.1, p.2.2.1]).map List.tail == some [0, p.2.2.2])
  && rom.rawsAlong 0 [0b00, 0b10, 0b11, 0b01, 0b00] == some [0, 0, 1, 0, 1]
  && rom.rawsAlong 0 [0b00, 0b01, 0b11, 0b10, 0b00] == some [0, 0, -1, 0, -1]

/-- R43 clause 6: a repeated resting symbol is absorbed. -/
def Memory.absorbsRest (rom : Memory) : Bool :=
  (rom.cellIs .start 0b11 fun c => idField c == stateId .start && dirField c == 0)
  && rom.cellIs .startMirror 0b00 fun c => idField c == stateId .startMirror && dirField c == 0

/-- The tables R43 admits: 24 cells that meet every clause. -/
def Memory.admitted (rom : Memory) : Bool :=
  rom.shapeOk && rom.closed && rom.flagsOnArrival && rom.rejectsReversal && rom.needsTwoReadings
  && rom.followsGrayPaths && rom.absorbsRest

end Sys2Proof.Machine
end

