-- ==== Sys2Proof/Machine/Sample.lean ====
section
/-! DEFINITION. SAMPLE (spec/40_sample_decode.md R80 to R89). -/

namespace Sys2Proof.Machine

/-- The rest of a SAMPLE once its ROM byte is read: store it whole, take the raw result from its fresh direction flag,
scale it if it is not 0, and respond (R82, R83, R85, R86). LAST is written only when the raw result is not 0, and only
then is `now` read (R100). -/
def storeCell (cell : Byte) (s : State) : State :=
  if rawOfByte cell ≠ 0 then
    (((s.writeState cell).writeLast (speedScale (rawOfByte cell) s.now s.last s.sens).2).respond
      (some (resultByte (speedScale (rawOfByte cell) s.now s.last s.sens).1)))
  else
    (s.writeState cell).respond (some (resultByte 0))

/-- SAMPLE over a transition table given as a parameter (R6, R43). A table that R43 does not admit is refused; a ROM
address above 23 faults (R48, I10; log entries 5 and 6). -/
def sampleWith (rom : Memory) (a b : Bool) (s : State) : Outcome :=
  if rom.admitted then
    match rom.read (romAddress (rowIndex s.stateReg) (symbol a b)) with
    | none => .fault (.romAddressUnused (romAddress (rowIndex s.stateReg) (symbol a b)))
    | some cell => .next (storeCell cell s)
  else .refused .tableNotAdmitted

/-- SAMPLE over the table of R42 (R85). -/
def execSample (a b : Bool) (s : State) : Outcome := sampleWith transitionRom a b s

end Sys2Proof.Machine
end

