-- ==== Sys2Proof/Machine/Dispatch.lean ====
section
/-! DEFINITION. Each command's meaning. -/

namespace Sys2Proof.Machine

def exec (i : Instr) (s : State) : Host.Outcome State Fault Refusal :=
  match i with
  | .sample a b => Sys2Proof.Machine.execSample a b s
  | .setsens v => Sys2Proof.Machine.execSetsens v s
  | .getsens => Sys2Proof.Machine.execGetsens s
  | .init v => Sys2Proof.Machine.execInit v s

end Sys2Proof.Machine
end

