-- ==== Sys2Proof/Machine/HostPort.lean ====
section
/-! DEFINITION. What the block does with what its host drives in one step (spec/00_scope.md R7, R8, R11;
spec/60_exceptions.md R144, R150; spec/70_reset_and_hazards.md R160, R167). -/

namespace Sys2Proof.Machine

/-- One request: its clock value stands on port `now`, its word is decoded, and the command is performed; an illegal word
is refused (R8, R66, R70). -/
def performRequest (r : Request) (s : State) : Outcome :=
  match decode r.cmd with
  | .ok i => exec i (s.presentNow r.now)
  | .error why => .refused (.illegalWord r.cmd why)

/-- One host event. A reset wins over the commands presented with it (R144); an overlapping request is refused (R167). -/
def performEvent (e : HostEvent) (s : State) : Outcome :=
  match e with
  | .quiet => .next s
  | .request r => performRequest r s
  | .overlap _ _ => .refused .overlappingRequests
  | .reset _ => .next s.resetBlock
  | .powerLoss => .next s.losePower

/-- The host presents the command word `w` next, with the clock value that already stands on port `now`. -/
def State.presentNext (s : State) (w : Command) : State := s.setHost (.request ⟨w, s.now⟩ :: s.host)

end Sys2Proof.Machine
end

