-- ==== Sys2Proof/Machine/Step.lean ====
section
/-! DEFINITION. One step of the machine: the next host event is performed; with none left the block idles
(spec/00_scope.md R8, spec/60_exceptions.md R150). QHSD has no program counter and fetches nothing (R50, D14): its next
command is the one the host presents. -/

namespace Sys2Proof.Machine

/-- One step. -/
def step (s : State) : Host.Outcome State Fault Refusal :=
  match s.host with
  | [] => .next s
  | e :: rest => performEvent e (s.setHost rest)

/-- `s` with the table word presented as the host's next command (log entry 1). -/
def State.withFetchWord (s : State) (nbits w : Nat) : State := s.presentNext (tableWord nbits w)

end Sys2Proof.Machine
end

