-- ==== Sys2Proof/Machine/Assembler.lean ====
section
/-! DEFINITION. The assembler of spec/30_encoding.md R68 and R69: a line of text, its range check, and the word (with the
value for port `now`) it produces. It is no part of the block (D19); it stands beside it. -/

namespace Sys2Proof.Machine

/-- The line a pseudo-instruction or a default operand stands for: `SAMPLESYM k @ t` is `SAMPLE k[1], k[0] @ t` (R69),
and `INIT` is `INIT 100` (R68). -/
def expandLine : AsmLine → AsmLine
  | .samplesym k t => .sample (k / 2 % 2) (k % 2) t
  | .init none => .init (some 100)
  | l => l

/-- The command of an expanded line whose operands are in range. -/
def lineInstr : AsmLine → Option Instr
  | .sample a b _ => some (.sample (a == 1) (b == 1))
  | .setsens v => some (.setsens (BitVec.ofNat 8 v))
  | .getsens => some .getsens
  | .init (some v) => some (.init (BitVec.ofNat 8 v))
  | .init none => none
  | .samplesym _ _ => none

/-- The value a line gives for port `now`: only a SAMPLE line gives one (R68). -/
def lineNow : AsmLine → Option Time
  | .sample _ _ t => some (BitVec.ofNat 32 t)
  | _ => none

/-- The word of a line and its value for port `now`. An operand out of range produces no word (R68). -/
def assemble (l : AsmLine) : Option (Command × Option Time) :=
  if l.wellFormed then (lineInstr (expandLine l)).map fun i => (encode i, lineNow (expandLine l)) else none

/-- A token of a line: a mnemonic or number, a comma, or the sign before the clock value (R68; log entry 16). -/
inductive AsmToken where
  | word (cs : List Char)
  | comma
  | at
deriving DecidableEq, Repr

/-- The word collected so far, as a token, if it is not empty. -/
def flushWord (cs : List Char) : List AsmToken := if cs = [] then [] else [.word cs.reverse]

/-- The tokens of a line; `cs` is the word being read, last character first. -/
def tokensFrom : List Char → List Char → Option (List AsmToken)
  | cs, [] => some (flushWord cs)
  | cs, c :: rest =>
    if c.isAlphanum then tokensFrom (c :: cs) rest
    else if c = ' ' then (tokensFrom [] rest).map (flushWord cs ++ ·)
    else if c = ',' then (tokensFrom [] rest).map (flushWord cs ++ AsmToken.comma :: ·)
    else if c = '@' then (tokensFrom [] rest).map (flushWord cs ++ AsmToken.at :: ·)
    else none

/-- The value of a digit in a base of at most 16, in either case. -/
def digitValue (base : Nat) (c : Char) : Option Nat :=
  let v := if c.isDigit then c.toNat - 48 else if c.isUpper then c.toNat - 55 else c.toNat - 87
  if v < base then some v else none

/-- The digits of a number in a base, after those whose value is `acc`. -/
def digitsFrom (base acc : Nat) : List Char → Option Nat
  | [] => some acc
  | c :: rest => (digitValue base c).bind fun v => digitsFrom base (acc * base + v) rest

/-- A number: decimal, or hexadecimal after `0x` (R68). -/
def numberOf : List Char → Option Nat
  | [] => none
  | ['0', 'x'] => none
  | '0' :: 'x' :: rest => digitsFrom 16 0 rest
  | cs => digitsFrom 10 0 cs

/-- The operands of a line: numbers separated by commas. -/
def operandsOf : List AsmToken → Option (List Nat)
  | [] => some []
  | [.word cs] => (numberOf cs).map fun n => [n]
  | .word cs :: .comma :: .word ds :: rest =>
    (numberOf cs).bind fun n => (operandsOf (.word ds :: rest)).map (n :: ·)
  | _ => none

/-- The operand tokens of a line, and its clock value where one is written. -/
def splitClock : List AsmToken → Option (List AsmToken × Option Nat)
  | [] => some ([], none)
  | [.at, .word cs] => (numberOf cs).map fun t => ([], some t)
  | .at :: _ => none
  | tok :: rest => (splitClock rest).map fun p => (tok :: p.1, p.2)

/-- The mnemonics in capitals; a line may write them in either case (R68). -/
def lineOf (mnemonic : List Char) (operands : List Nat) (clock : Option Nat) : Option AsmLine :=
  if mnemonic = ['S', 'A', 'M', 'P', 'L', 'E'] then
    match operands, clock with
    | [a, b], some t => some (.sample a b t)
    | _, _ => none
  else if mnemonic = ['S', 'A', 'M', 'P', 'L', 'E', 'S', 'Y', 'M'] then
    match operands, clock with
    | [k], some t => some (.samplesym k t)
    | _, _ => none
  else if mnemonic = ['S', 'E', 'T', 'S', 'E', 'N', 'S'] then
    match operands with
    | [v] => some (.setsens v)
    | _ => none
  else if mnemonic = ['G', 'E', 'T', 'S', 'E', 'N', 'S'] then
    match operands with
    | [] => some .getsens
    | _ => none
  else if mnemonic = ['I', 'N', 'I', 'T'] then
    match operands with
    | [] => some (.init none)
    | [v] => some (.init (some v))
    | _ => none
  else none

/-- One line of text (R68). -/
def parseLine (text : List Char) : Option AsmLine :=
  match tokensFrom [] text with
  | some (.word m :: rest) =>
    (splitClock rest).bind fun p => (operandsOf p.1).bind fun ops => lineOf (m.map Char.toUpper) ops p.2
  | _ => none

/-- The word, and the value for port `now`, of one line of text (R68, R69). -/
def assembleText (text : List Char) : Option (Command × Option Time) := (parseLine text).bind assemble

end Sys2Proof.Machine
end

