-- ==== Sys2Proof/Safety.lean ====
section
/-! DEFINITION. What counts as a legal state, a lawful host and an indistinguishable pair of states, in the terms the
statements use (spec/10_state.md R24, R26; spec/70_reset_and_hazards.md R163 to R167). -/

namespace Sys2Proof.Safety

open Sys2Proof.Machine

/-- The invariant of R24: id in 0..5, direction in 0b00, 0b01, 0b10, bits 7:6 zero. -/
abbrev StateLegal (s : State) : Prop :=
  (idField s.stateReg).toNat ≤ 5 ∧ dirField s.stateReg ≠ 0b11#2 ∧ topField s.stateReg = 0b00#2

/-- A word of the opcode table (R64): some row's bits under its mask. -/
def legalWord (w : Command) : Bool := opcodeTable.any fun r => (w &&& r.mask) == r.bits

/-- A host event that keeps the contract: no illegal word (R66), no overlap (R167), no loss of power (R31). -/
def lawfulEvent : HostEvent → Bool
  | .quiet => true
  | .request r => legalWord r.cmd
  | .overlap _ _ => false
  | .reset _ => true
  | .powerLoss => false

/-- Two states that differ at most in STATE[7:4], where a stale direction flag stands (R26). -/
abbrev SameButFlag (s t : State) : Prop :=
  idField s.stateReg = idField t.stateReg ∧ { s with stateReg := t.stateReg } = t

/-- Two outcomes that differ at most in STATE[7:4]; stops are the same stop. -/
def SameOutcomeButFlag : Outcome → Outcome → Prop
  | .next s, .next t => SameButFlag s t
  | .fault f, .fault g => f = g
  | .refused r, .refused q => r = q
  | _, _ => False

end Sys2Proof.Safety
end

