-- ==== Sys2Proof/Certificates/Slice0/Obligations.lean ====
section
/-! DEFINITION. The statements about QHSD. Each formalises rules of spec/; where one rests on the model's own choice, its
docstring names the log entry. -/

open Sys2Proof Sys2Proof.Machine Sys2Proof.Safety

/-! ## Reset, idling, power -/

/-- R160, R144: the five values after `rst`, in the reset state and after every reset event, whatever the state was. R144
speaks of one command requested together with the reset; that any number of commands, legal or not, may be presented
with it and none is performed is the model's choice (log entry 9). -/
def Obligations.ResetLeavesTheSpecValues : Prop :=
  (State.reset.stateReg = 0x00#8 ∧ State.reset.sens = 100#8 ∧ State.reset.last = 0#32
    ∧ State.reset.rspValid = false ∧ State.reset.rsp = 0x00#8)
  ∧ ∀ (s : State) (presented : List Request) (rest : List HostEvent), s.host = .reset presented :: rest →
      step s = .next { s with
        host := rest, stateReg := 0x00#8, sens := 100#8, last := 0#32, rspValid := false, rsp := 0x00#8 }

/-- R150: with nothing driven, the state holds unchanged. That an empty list of events stands for an idle host is the
model's choice (log entry 1). -/
def Obligations.IdleStepKeepsTheState : Prop :=
  (∀ s : State, s.host = [] → step s = .next s)
  ∧ ∀ (s : State) (rest : List HostEvent), s.host = .quiet :: rest → step s = .next { s with host := rest }

/-- R31: after a power loss no register or latch keeps its value; each holds a free value, for every count of earlier
losses. The form is the model's choice (log entry 3). -/
def Obligations.PowerLossFreesEveryRegister : Prop :=
  ∀ (s : State) (rest : List HostEvent), s.host = .powerLoss :: rest →
    step s = .next { s with
      host := rest
      stateReg := Config.lostState s.draws, sens := Config.lostSens s.draws, last := Config.lostLast s.draws
      rspValid := Config.lostRspValid s.draws, rsp := Config.lostRsp s.draws, draws := s.draws + 1 }

/-! ## The invariant of STATE -/

/-- R24 at reset. -/
def Obligations.ResetStateIsLegal : Prop := StateLegal State.reset

/-- R24: every step from a legal state, other than a power loss (R31, log entry 3), leaves a legal state. -/
def Obligations.EveryStepKeepsStateLegal : Prop :=
  ∀ s t : State, StateLegal s → s.host.head? ≠ some .powerLoss → step s = .next t → StateLegal t

/-- R140, R11: from a legal state, a host that keeps its contract is never stopped, however long it runs, and the state
is legal at the end. A reset event counts as lawful whatever commands are presented with it, overlapping or illegal ones
too (R144, R160); that such an event resets and does not stop the machine is the model's choice (log entry 9). -/
def Obligations.LawfulHostIsNeverStopped : Prop :=
  ∀ (k : Nat) (s : State), StateLegal s → s.host.all lawfulEvent = true →
    ∃ t : State, Host.Core.run Sys2Proof.core k s = .next t ∧ StateLegal t

/-! ## Decoding and encoding -/

/-- R61, R64, R67: a word decodes to a command exactly when it is that command's word. In particular decoding the word of
any command gives the command back, for every operand. -/
def Obligations.DecodeReadsExactlyTheEncoding : Prop :=
  ∀ (i : Instr) (w : Command), decode w = .ok i ↔ w = encode i

/-- R64 with R63: each row's match and mask, the operands its words give, and no other word decodes. -/
def Obligations.DecodeFollowsTheOpcodeTable : Prop :=
  ∀ w : Command,
    (w &&& 0xFFFC#16 = 0x0000#16 → decode w = .ok (.sample (w.getLsbD 1) (w.getLsbD 0)))
    ∧ (w &&& 0xFF00#16 = 0x4000#16 → decode w = .ok (.setsens (w.extractLsb' 0 8)))
    ∧ (w &&& 0xFFFF#16 = 0x8000#16 → decode w = .ok .getsens)
    ∧ (w &&& 0xFF00#16 = 0xC000#16 → decode w = .ok (.init (w.extractLsb' 0 8)))
    ∧ (w &&& 0xFFFC#16 ≠ 0x0000#16 → w &&& 0xFF00#16 ≠ 0x4000#16 → w &&& 0xFFFF#16 ≠ 0x8000#16 →
        w &&& 0xFF00#16 ≠ 0xC000#16 → ∃ why, decode w = .error why)

/-- R64: the set of legal words has 517 members. -/
def Obligations.LegalWordsAreFiveHundredSeventeen : Prop :=
  ((Finset.range 65536).filter fun n => legalWord (BitVec.ofNat 16 n) = true).card = 517

/-- Words of the four rows and illegal words, as spec/95_test_vectors.md section 5 lists them. -/
def Obligations.ListedWordsDecodeAsTheSpecSays : Prop :=
  decode 0x0000#16 = .ok (.sample false false) ∧ decode 0x0001#16 = .ok (.sample false true)
  ∧ decode 0x0002#16 = .ok (.sample true false) ∧ decode 0x0003#16 = .ok (.sample true true)
  ∧ decode 0x4064#16 = .ok (.setsens 100#8) ∧ decode 0x8000#16 = .ok .getsens
  ∧ decode 0xC000#16 = .ok (.init 0#8) ∧ decode 0xC0FF#16 = .ok (.init 255#8)
  ∧ ([0x0004#16, 0x2003#16, 0x3FFF#16, 0x4164#16, 0x7FFF#16, 0x8001#16, 0xA000#16, 0xC100#16, 0xFFFF#16].all
      fun w => (decode w).toOption.isNone) = true

/-- R8, R70: a request whose word decodes to a command performs that command, with the request's clock value on port
`now` and the host's next event waiting. -/
def Obligations.StepRunsTheDecodedCommand : Prop :=
  ∀ (s : State) (r : Request) (rest : List HostEvent) (i : Instr),
    s.host = .request r :: rest → decode r.cmd = .ok i → step s = exec i { s with host := rest, now := r.now }

/-- R66: the four kinds of illegal word are refused by name. -/
def Obligations.IllegalWordsAreRefused : Prop :=
  ∀ (s : State) (r : Request) (rest : List HostEvent), s.host = .request r :: rest →
    (r.cmd.extractLsb' 14 2 = 0b00#2 → r.cmd.extractLsb' 2 12 ≠ 0#12 →
      step s = .refused (.illegalWord r.cmd .reservedBitsS))
    ∧ (r.cmd.extractLsb' 14 2 = 0b01#2 ∨ r.cmd.extractLsb' 14 2 = 0b11#2 → r.cmd.extractLsb' 8 6 ≠ 0#6 →
      step s = .refused (.illegalWord r.cmd .reservedBitsI8))
    ∧ (r.cmd.extractLsb' 14 2 = 0b10#2 → r.cmd.extractLsb' 0 14 ≠ 0#14 →
      step s = .refused (.illegalWord r.cmd .reservedBitsN))

/-- R167: a request that overlaps one in progress is refused. The event that shows it is the model's choice (log entry
8). -/
def Obligations.OverlapIsRefused : Prop :=
  ∀ (s : State) (r q : Request) (rest : List HostEvent), s.host = .overlap r q :: rest →
    step s = .refused .overlappingRequests

/-! ## The transition ROM -/

/-- R42: the flat ROM image, at addresses 0..23 and nowhere else, and its four flagged cells, two for each direction. -/
def Obligations.RomHoldsTheSpecTable : Prop :=
  (∀ addr : Nat, transitionRom.read addr =
    ([0x03, 0x02, 0x01, 0x00, 0x23, 0x00, 0x01, 0x00, 0x13, 0x02, 0x00, 0x00,
      0x03, 0x05, 0x04, 0x00, 0x03, 0x03, 0x04, 0x10, 0x03, 0x05, 0x03, 0x20] : List Byte)[addr]?)
  ∧ ∀ (addr : Nat) (c : Byte), transitionRom.read addr = some c →
      (dirField c = 0b01#2 ↔ addr = 2 * 4 + 0 ∨ addr = 4 * 4 + 3)
      ∧ (dirField c = 0b10#2 ↔ addr = 1 * 4 + 0 ∨ addr = 5 * 4 + 3)

/-- R22: the three fields make up the combined byte, at the places R22 gives them. -/
def Obligations.CombinedByteFields : Prop :=
  ∀ b : Byte, b = topField b ++ dirField b ++ idField b

/-- R43 clauses 1 and 2, of every admitted table, the table of R42 among them: each of the 24 cells is there and legal,
and a flagged cell leads from a `…BEGIN` state to a resting state. -/
def Obligations.AdmittedTablesAreClosed : Prop :=
  transitionRom.admitted = true
  ∧ ∀ rom : Memory, rom.admitted = true → ∀ (id : Nat) (sym : Symbol), id ≤ 5 →
      ∃ c : Byte, rom.read (id * 4 + sym.toNat) = some c
        ∧ (idField c).toNat ≤ 5 ∧ dirField c ≠ 0b11#2 ∧ topField c = 0b00#2
        ∧ (dirField c ≠ 0b00#2 → (idField c = 0#4 ∨ idField c = 3#4) ∧ (id = 1 ∨ id = 2 ∨ id = 4 ∨ id = 5))

/-- R43: a table that the model's checks do not admit is refused, from every state and for every symbol. The checks are
the model's reading of R43's clauses, and that SAMPLE is what refuses the configuration is the model's choice (log entry
5). AdmittedTablesAreClosed, AdmittedTablesRejectReversal, AdmittedTablesNeedTwoReadings and
AdmittedTablesFollowCleanDetents say what admission gives of each clause. -/
def Obligations.TableNotAdmittedIsRefused : Prop :=
  ∀ (rom : Memory) (a b : Bool) (s : State), rom.admitted = false →
    sampleWith rom a b s = .refused .tableNotAdmitted

/-- R43 clauses 3 and 6, of every admitted table, from every decoder state (so after every history): once a resting
symbol has been read, any intermediate symbols and then the same resting symbol again give 0 on every call, and leave the
state that rests at it. With no intermediate symbol, the repeated resting symbol is absorbed. Admission is the model's
reading of R43 (log entry 5). -/
def Obligations.AdmittedTablesRejectReversal : Prop :=
  ∀ (rom : Memory) (id : Nat) (r : Symbol) (ms : List Symbol), rom.admitted = true → id ≤ 5 →
    r = 0b00#2 ∨ r = 0b11#2 → (∀ m ∈ ms, m = 0b01#2 ∨ m = 0b10#2) →
    (∃ first : Int, rom.rawsAlong id (r :: (ms ++ [r])) = some (first :: List.replicate (ms.length + 1) 0))
    ∧ rom.idAlong id (r :: (ms ++ [r])) = some (if r = 0b11#2 then 0 else 3)

/-- R43 clause 4, of every admitted table: a `…BEGIN` state is entered only on its own intermediate symbol (R23: 10 for ids
1 and 4, 01 for ids 2 and 5), and only from a resting state or from itself; a flag stands only on a resting symbol, in a
`…BEGIN` row, with that row's direction. Admission is the model's reading of R43 (log entry 5). -/
def Obligations.AdmittedTablesNeedTwoReadings : Prop :=
  ∀ (rom : Memory) (id : Nat) (sym : Symbol) (c : Byte), rom.admitted = true → id ≤ 5 →
    rom.read (id * 4 + sym.toNat) = some c →
    (idField c = 1#4 ∨ idField c = 4#4 → sym = 0b10#2 ∧ (id = 0 ∨ id = 3 ∨ id = (idField c).toNat))
    ∧ (idField c = 2#4 ∨ idField c = 5#4 → sym = 0b01#2 ∧ (id = 0 ∨ id = 3 ∨ id = (idField c).toNat))
    ∧ (dirField c = 0b01#2 → (sym = 0b00#2 ∨ sym = 0b11#2) ∧ (id = 2 ∨ id = 4))
    ∧ (dirField c = 0b10#2 → (sym = 0b00#2 ∨ sym = 0b11#2) ∧ (id = 1 ∨ id = 5))

/-- R43 clause 5, C2, of every admitted table, from every decoder state: once a resting symbol has been read, a clean
detent from it gives 0 and then one result of its sign; where its intermediate symbol is read more than once, 0 on each of
those calls and then nothing of the other sign. Admission is the model's reading of R43 (log entry 5). -/
def Obligations.AdmittedTablesFollowCleanDetents : Prop :=
  ∀ p ∈ ([(0b11#2, 0b01#2, 0b00#2, 1), (0b00#2, 0b10#2, 0b11#2, 1),
          (0b11#2, 0b10#2, 0b00#2, -1), (0b00#2, 0b01#2, 0b11#2, -1)] : List (Symbol × Symbol × Symbol × Int)),
  ∀ (rom : Memory) (id : Nat), rom.admitted = true → id ≤ 5 →
    (∃ first : Int, rom.rawsAlong id [p.1, p.2.1, p.2.2.1] = some [first, 0, p.2.2.2])
    ∧ ∀ n : Nat, ∃ first last : Int, (last = 0 ∨ last = p.2.2.2)
        ∧ rom.rawsAlong id (p.1 :: (List.replicate (n + 1) p.2.1 ++ [p.2.2.1]))
            = some (first :: (List.replicate (n + 1) 0 ++ [last]))

/-! ## SAMPLE -/

/-- R85: the pseudocode, over integers and the literal table of R42, and the words that present it. All that the equation
does not name is unchanged. -/
def Obligations.SampleFollowsItsPseudocode : Prop :=
  (∀ (a b : Bool) (s : State), (idField s.stateReg).toNat ≤ 5 →
    ∃ cell : Byte,
      ([0x03, 0x02, 0x01, 0x00, 0x23, 0x00, 0x01, 0x00, 0x13, 0x02, 0x00, 0x00,
        0x03, 0x05, 0x04, 0x00, 0x03, 0x03, 0x04, 0x10, 0x03, 0x05, 0x03, 0x20] : List Byte)[
          (idField s.stateReg).toNat * 4 + (if a then 2 else 0) + (if b then 1 else 0)]? = some cell
      ∧ exec (.sample a b) s = .next { s with
          stateReg := cell
          last := if dirField cell = 0b01#2 ∨ dirField cell = 0b10#2 then s.now else s.last
          rspValid := true
          rsp := BitVec.ofInt 8
            ((if dirField cell = 0b01#2 then 1 else if dirField cell = 0b10#2 then -1 else 0)
              * (if (s.now - s.last).toNat < s.sens.toNat / 2 then 3
                 else if (s.now - s.last).toNat < s.sens.toNat then 2 else 1)) })
  ∧ ∀ (s : State) (r : Request) (rest : List HostEvent), s.host = .request r :: rest →
      r.cmd &&& 0xFFFC#16 = 0x0000#16 →
      step s = exec (.sample (r.cmd.getLsbD 1) (r.cmd.getLsbD 0)) { s with host := rest, now := r.now }

/-- R89: from a legal STATE, for every symbol, clock value, LAST and SENS, SAMPLE has one outcome, a next state, and that
state is legal; so over the table of R42, which `exec` uses, and, as D6 asks, over every admitted table. R89 speaks of the
one table; admission is the model's reading of R43 (log entry 5). -/
def Obligations.SampleIsClosedOverEveryAdmittedTable : Prop :=
  ∀ (rom : Memory) (a b : Bool) (s : State), rom.admitted = true → StateLegal s →
    (∃ t : State, sampleWith rom a b s = .next t ∧ StateLegal t)
    ∧ ∃ t : State, exec (.sample a b) s = .next t ∧ StateLegal t

/-- The model's choice (log entry 6): from a STATE whose id is above 5 (no legal state), SAMPLE faults with the address
that has no byte. I10 says that a model that reached one of the addresses 24..31 should fault, and R48 that they are
unused; of the addresses 32 and up, which ids 8..15 form, they say nothing. -/
def Obligations.UnusedRomAddressFaults : Prop :=
  ∀ (a b : Bool) (s : State), 5 < (idField s.stateReg).toNat →
    exec (.sample a b) s = .fault (.romAddressUnused
      ((idField s.stateReg).toNat * 4 + (if a then 2 else 0) + (if b then 1 else 0)))

/-- R83: the raw result of a direction flag. For the encoding 0b11, which no cell holds, 0 is R84's own decision from
general knowledge (D8; log entry 11). -/
def Obligations.DirectionFlagGivesTheRawResult : Prop :=
  ∀ c : Byte,
    (dirField c = 0b01#2 → rawOfByte c = 1) ∧ (dirField c = 0b10#2 → rawOfByte c = -1)
    ∧ (dirField c = 0b00#2 → rawOfByte c = 0) ∧ (dirField c = 0b11#2 → rawOfByte c = 0)

/-- R146, R70, R100: whatever the command, the value on port `now` matters only to a SAMPLE that completes a step. -/
def Obligations.ClockIsReadOnlyByACompletedStep : Prop :=
  ∀ (i : Instr) (s t : State) (n : Time), exec i s = .next t →
    (∀ a b, i = .sample a b → dirField t.stateReg = 0b00#2) →
    exec i { s with now := n } = .next { t with now := n }

/-- R26, R81, R25: two states that differ at most in the stale bits STATE[7:4] give, for every sequence of host events,
the same stop or next states that differ at most there. -/
def Obligations.StaleFlagIsInvisible : Prop :=
  ∀ (k : Nat) (s t : State), SameButFlag s t →
    SameOutcomeButFlag (Host.Core.run Sys2Proof.core k s) (Host.Core.run Sys2Proof.core k t)

/-- R43 clause 2: over every admitted table, the SAMPLE after one that completed a step completes none, whatever its
symbol and time; it returns 0 and leaves LAST. -/
def Obligations.NoTwoStepsInARow : Prop :=
  ∀ (rom : Memory) (a b c d : Bool) (s t u : State) (n : Time),
    sampleWith rom a b s = .next t → dirField t.stateReg ≠ 0b00#2 →
    sampleWith rom c d { t with now := n } = .next u →
    dirField u.stateReg = 0b00#2 ∧ u.rspValid = true ∧ u.rsp = 0#8 ∧ u.last = t.last

/-- R87: the four paths from one resting state to the other. The intermediate symbol gives 0 and leaves LAST; the
opposite resting symbol then completes one step of the path's sign, at its own time. -/
def Obligations.HalfStepPathsGiveOneStep : Prop :=
  ∀ p ∈ ([(0#4, false, true, false, false, 3#4, 1), (0#4, true, false, false, false, 3#4, -1),
          (3#4, true, false, true, true, 0#4, 1), (3#4, false, true, true, true, 0#4, -1)] :
          List (BitVec 4 × Bool × Bool × Bool × Bool × BitVec 4 × Int)),
  ∀ (s : State) (n m : Time), idField s.stateReg = p.1 →
    ∃ (t u : State) (tier : Int),
      exec (.sample p.2.1 p.2.2.1) { s with now := n } = .next t
      ∧ t.rspValid = true ∧ t.rsp = 0#8 ∧ t.last = s.last
      ∧ exec (.sample p.2.2.2.1 p.2.2.2.2.1) { t with now := m } = .next u
      ∧ idField u.stateReg = p.2.2.2.2.2.1 ∧ u.last = m
      ∧ 1 ≤ tier ∧ tier ≤ 3 ∧ u.rspValid = true ∧ u.rsp = BitVec.ofInt 8 (p.2.2.2.2.2.2 * tier)

/-- R87, R43 clause 3: contact bounce on one line. While the host presents only a resting symbol and one intermediate
symbol next to it, from that resting state or the `…BEGIN` state between them, no step completes, however many samples
there are: every response is 0 and LAST is never written. -/
def Obligations.BounceNeverSteps : Prop :=
  ∀ p ∈ ([(0#4, 1#4, 0x0003#16, 0x0002#16), (0#4, 2#4, 0x0003#16, 0x0001#16),
          (3#4, 4#4, 0x0000#16, 0x0002#16), (3#4, 5#4, 0x0000#16, 0x0001#16)] :
          List (BitVec 4 × BitVec 4 × Command × Command)),
  ∀ (rs : List Request) (s : State),
    (∀ r ∈ rs, r.cmd = p.2.2.1 ∨ r.cmd = p.2.2.2) →
    (idField s.stateReg = p.1 ∨ idField s.stateReg = p.2.1) → s.host = rs.map .request →
    ∃ t : State, Host.Core.run Sys2Proof.core rs.length s = .next t
      ∧ (idField t.stateReg = p.1 ∨ idField t.stateReg = p.2.1)
      ∧ t.last = s.last ∧ (rs ≠ [] → t.rspValid = true ∧ t.rsp = 0#8)

/-- R88, R162, R43 clause 6: from a resting state, a resting symbol moves to (or stays in) the state that rests at that
symbol, with no step; at start-up in particular. -/
def Obligations.RestingSymbolFromRestGivesNoStep : Prop :=
  ∀ s : State, idField s.stateReg = 0#4 ∨ idField s.stateReg = 3#4 →
    exec (.sample false false) s = .next { s with stateReg := 0x03#8, rspValid := true, rsp := 0#8 }
    ∧ exec (.sample true true) s = .next { s with stateReg := 0x00#8, rspValid := true, rsp := 0#8 }

/-! ## The speed-tier classifier -/

/-- R103 and R104: the three half-open windows, and the classifier's result and new LAST. -/
def Obligations.ClassifierFollowsTheTierWindows : Prop :=
  (∀ (e : Time) (sens : Byte),
    (tierOf e sens = .fastest ↔ e.toNat < sens.toNat / 2)
    ∧ (tierOf e sens = .medium ↔ sens.toNat / 2 ≤ e.toNat ∧ e.toNat < sens.toNat)
    ∧ (tierOf e sens = .slow ↔ sens.toNat ≤ e.toNat))
  ∧ ∀ (raw : Int) (now last : Time) (sens : Byte),
      speedScale raw now last sens =
        (raw * (if (now - last).toNat < sens.toNat / 2 then 3
                else if (now - last).toNat < sens.toNat then 2 else 1), now)

/-- R107: the table of thresholds and windows for six values of SENS. -/
def Obligations.ReferenceTierWindows : Prop :=
  ∀ p ∈ ([(0#8, 0, 0), (1#8, 0, 1), (2#8, 1, 2), (3#8, 1, 3), (100#8, 50, 100), (255#8, 127, 255)] :
      List (Byte × Nat × Nat)),
    (fastThreshold p.1).toNat = p.2.1 ∧ (mediumThreshold p.1).toNat = p.2.2
    ∧ ∀ e : Time,
        (tierOf e p.1 = .fastest ↔ e.toNat < p.2.1)
        ∧ (tierOf e p.1 = .medium ↔ p.2.1 ≤ e.toNat ∧ e.toNat < p.2.2)
        ∧ (tierOf e p.1 = .slow ↔ p.2.2 ≤ e.toNat)

/-- R101: across a wrap, elapsed is the true distance when that is below 2^32; a backward jump by `d` gives 2^32 - d,
which is the slow tier whenever d ≤ 2^32 - SENS. -/
def Obligations.ElapsedToleratesWrapAndBackwardClock : Prop :=
  (∀ (last : Time) (distance : Nat), distance < 2 ^ 32 →
    (elapsed (last + BitVec.ofNat 32 distance) last).toNat = distance)
  ∧ ∀ (last d : Time) (sens : Byte), 0 < d.toNat →
      (elapsed (last - d) last).toNat = 2 ^ 32 - d.toNat
      ∧ (d.toNat ≤ 2 ^ 32 - sens.toNat → tierOf (elapsed (last - d) last) sens = .slow)

/-- R101: SAMPLE sees only differences of clock values. Moving the clock and LAST by the same amount, across the wrap or
not, changes nothing but the two by that amount. -/
def Obligations.ClockShiftIsInvisible : Prop :=
  ∀ (a b : Bool) (s t : State) (d : Time), exec (.sample a b) s = .next t →
    exec (.sample a b) { s with now := s.now + d, last := s.last + d }
      = .next { t with now := t.now + d, last := t.last + d }

/-- R105: the response of a SAMPLE is a result in {-3..3}, its sign the direction and its magnitude the tier, as an 8-bit
two's-complement number, with the byte values R105 lists. -/
def Obligations.SampleResultIsDirectionTimesTier : Prop :=
  (∀ (a b : Bool) (s t : State), exec (.sample a b) s = .next t →
    t.rspValid = true ∧ ∃ result : Int, -3 ≤ result ∧ result ≤ 3 ∧ t.rsp = resultByte result
      ∧ (0 < result ↔ dirField t.stateReg = 0b01#2) ∧ (result < 0 ↔ dirField t.stateReg = 0b10#2)
      ∧ (result ≠ 0 →
          (result.natAbs = 3 ↔ tierOf (elapsed s.now s.last) s.sens = .fastest)
          ∧ (result.natAbs = 2 ↔ tierOf (elapsed s.now s.last) s.sens = .medium)
          ∧ (result.natAbs = 1 ↔ tierOf (elapsed s.now s.last) s.sens = .slow)))
  ∧ (∀ result : Int, -3 ≤ result → result ≤ 3 → (resultByte result).toInt = result)
  ∧ resultByte 3 = 0x03#8 ∧ resultByte 2 = 0x02#8 ∧ resultByte 1 = 0x01#8 ∧ resultByte 0 = 0x00#8
  ∧ resultByte (-1) = 0xFF#8 ∧ resultByte (-2) = 0xFE#8 ∧ resultByte (-3) = 0xFD#8

/-- R106: a step completed while LAST is 0, as it is after reset or INIT, is classified with elapsed = now. -/
def Obligations.FirstStepIsTimedAgainstZero : Prop :=
  ∀ (a b : Bool) (s t : State), s.last = 0#32 → exec (.sample a b) s = .next t →
    (dirField t.stateReg = 0b01#2 →
      (s.sens.toNat ≤ s.now.toNat → t.rsp = 0x01#8)
      ∧ (s.sens.toNat / 2 ≤ s.now.toNat → s.now.toNat < s.sens.toNat → t.rsp = 0x02#8)
      ∧ (s.now.toNat < s.sens.toNat / 2 → t.rsp = 0x03#8))
    ∧ (dirField t.stateReg = 0b10#2 →
      (s.sens.toNat ≤ s.now.toNat → t.rsp = 0xFF#8)
      ∧ (s.sens.toNat / 2 ≤ s.now.toNat → s.now.toNat < s.sens.toNat → t.rsp = 0xFE#8)
      ∧ (s.now.toNat < s.sens.toNat / 2 → t.rsp = 0xFD#8))

/-- R103: with SENS = 0 every step reports magnitude 1, whatever the times. -/
def Obligations.ZeroSensitivityGivesMagnitudeOne : Prop :=
  ∀ (a b : Bool) (s t : State), s.sens = 0#8 → exec (.sample a b) s = .next t →
    t.rsp = if dirField t.stateReg = 0b01#2 then 0x01#8 else if dirField t.stateReg = 0b10#2 then 0xFF#8 else 0x00#8

/-! ## SETSENS, GETSENS, INIT -/

/-- R120: SETSENS in every state, and the words that present it. STATE and LAST are unchanged. The SAMPLE right after it
uses the new SENS and the old LAST (R164), and a SAMPLE that completes no step does not read SENS. That rsp is unchanged
too is the model's reading of `respond(none)` (R10; R161 says so of INIT only; log entry 12). -/
def Obligations.SetsensWritesTheSensitivity : Prop :=
  (∀ (v : Byte) (s : State), exec (.setsens v) s = .next { s with sens := v, rspValid := false })
  ∧ (∀ (s : State) (r : Request) (rest : List HostEvent), s.host = .request r :: rest →
      r.cmd &&& 0xFF00#16 = 0x4000#16 →
      step s = .next { s with host := rest, now := r.now, sens := r.cmd.extractLsb' 0 8, rspValid := false })
  ∧ (∀ (v : Byte) (a b : Bool) (s : State), ∃ u : State,
      exec (.setsens v) s = .next u ∧ exec (.sample a b) u = exec (.sample a b) { s with sens := v })
  ∧ ∀ (v : Byte) (a b : Bool) (s t : State), exec (.sample a b) s = .next t → dirField t.stateReg = 0b00#2 →
      exec (.sample a b) { s with sens := v } = .next { t with sens := v }

/-- R121: GETSENS in every state, and the word that presents it. No register changes. It returns exactly what SETSENS or
INIT wrote, and 100 after reset; a second one returns the same. -/
def Obligations.GetsensRespondsWithTheSensitivity : Prop :=
  (∀ s : State, exec .getsens s = .next { s with rspValid := true, rsp := s.sens })
  ∧ (∀ (s : State) (r : Request) (rest : List HostEvent), s.host = .request r :: rest →
      r.cmd &&& 0xFFFF#16 = 0x8000#16 →
      step s = .next { s with host := rest, now := r.now, rspValid := true, rsp := s.sens })
  ∧ (∀ (v : Byte) (s u : State), exec (.setsens v) s = .next u ∨ exec (.init v) s = .next u →
      ∃ t : State, exec .getsens u = .next t ∧ t.rspValid = true ∧ t.rsp = v ∧ exec .getsens t = .next t)
  ∧ ∀ s : State, ∃ t : State, exec .getsens s.resetBlock = .next t ∧ t.rspValid = true ∧ t.rsp = 0x64#8

/-- R122: INIT in every state, and the words that present it. rsp is unchanged (R161). -/
def Obligations.InitConstructsTheDecoder : Prop :=
  (∀ (v : Byte) (s : State),
    exec (.init v) s = .next { s with stateReg := 0x00#8, sens := v, last := 0#32, rspValid := false })
  ∧ ∀ (s : State) (r : Request) (rest : List HostEvent), s.host = .request r :: rest →
      r.cmd &&& 0xFF00#16 = 0xC000#16 →
      step s = .next { s with
        host := rest, now := r.now, stateReg := 0x00#8, sens := r.cmd.extractLsb' 0 8, last := 0#32, rspValid := false }

/-- R160, R161, R122: INIT 100 leaves what a reset leaves, but for rsp, which INIT does not drive. -/
def Obligations.InitHundredEqualsReset : Prop :=
  ∀ s : State, exec (.init 100#8) s = .next { s.resetBlock with rsp := s.rsp }

/-! ## Whole-machine rules -/

/-- R62, R20: no command writes a register R20's table does not give it. Only SETSENS and INIT write SENS; only SAMPLE and
INIT write STATE; only INIT and a SAMPLE that completes a step write LAST; none touches the model's own fields. -/
def Obligations.CommandsWriteOnlyTheirRegisters : Prop :=
  ∀ (i : Instr) (s t : State), exec i s = .next t →
    (t.now = s.now ∧ t.host = s.host ∧ t.draws = s.draws)
    ∧ (t.sens ≠ s.sens → ∃ v, i = .setsens v ∨ i = .init v)
    ∧ (t.stateReg ≠ s.stateReg → (∃ a b, i = .sample a b) ∨ ∃ v, i = .init v)
    ∧ (t.last ≠ s.last → (∃ a b, i = .sample a b ∧ dirField t.stateReg ≠ 0b00#2) ∨ ∃ v, i = .init v)

/-- R29, R10: SAMPLE and GETSENS drive a response; SETSENS and INIT drive none. INIT leaves rsp (R161); that SETSENS
leaves it too is the model's reading of `respond(none)` (log entry 12). -/
def Obligations.ResponseFollowsTheCommand : Prop :=
  ∀ (i : Instr) (s t : State), exec i s = .next t →
    (t.rspValid = true ↔ i = .getsens ∨ ∃ a b, i = .sample a b)
    ∧ (t.rspValid = false → t.rsp = s.rsp)

/-! ## The assembler -/

/-- R68, R69: the word and the clock value of each line whose operands are in range; outside the ranges no word is
produced. -/
def Obligations.AssemblerProducesTheListedWords : Prop :=
  (∀ a b t : Nat, assemble (.sample a b t) =
    if a ≤ 1 ∧ b ≤ 1 ∧ t < 2 ^ 32 then
      some (0x0000#16 ||| (BitVec.ofNat 16 a <<< 1) ||| BitVec.ofNat 16 b, some (BitVec.ofNat 32 t)) else none)
  ∧ (∀ v : Nat, assemble (.setsens v) = if v ≤ 255 then some (0x4000#16 ||| BitVec.ofNat 16 v, none) else none)
  ∧ assemble .getsens = some (0x8000#16, none)
  ∧ (∀ v : Nat, assemble (.init (some v)) = if v ≤ 255 then some (0xC000#16 ||| BitVec.ofNat 16 v, none) else none)
  ∧ assemble (.init none) = some (0xC000#16 ||| 100#16, none)
  ∧ ∀ k t : Nat, assemble (.samplesym k t) =
      if k ≤ 3 ∧ t < 2 ^ 32 then some (0x0000#16 ||| BitVec.ofNat 16 k, some (BitVec.ofNat 32 t)) else none
end

