-- ==== Sys2Proof/Laws/State.lean ====
section
/-! SUPPORT. One lemma per field per update of State, so that no later proof unfolds a record update. -/

namespace Sys2Proof.Machine

variable (s : State)

/-! Fields after `STATE <- v`. -/

@[simp] theorem State.writeState_stateReg (v : Byte) : (s.writeState v).stateReg = v := rfl
@[simp] theorem State.writeState_sens (v : Byte) : (s.writeState v).sens = s.sens := rfl
@[simp] theorem State.writeState_last (v : Byte) : (s.writeState v).last = s.last := rfl
@[simp] theorem State.writeState_rspValid (v : Byte) : (s.writeState v).rspValid = s.rspValid := rfl
@[simp] theorem State.writeState_rsp (v : Byte) : (s.writeState v).rsp = s.rsp := rfl
@[simp] theorem State.writeState_now (v : Byte) : (s.writeState v).now = s.now := rfl
@[simp] theorem State.writeState_host (v : Byte) : (s.writeState v).host = s.host := rfl
@[simp] theorem State.writeState_draws (v : Byte) : (s.writeState v).draws = s.draws := rfl

/-! Fields after `SENS <- v`. -/

@[simp] theorem State.writeSens_stateReg (v : Byte) : (s.writeSens v).stateReg = s.stateReg := rfl
@[simp] theorem State.writeSens_sens (v : Byte) : (s.writeSens v).sens = v := rfl
@[simp] theorem State.writeSens_last (v : Byte) : (s.writeSens v).last = s.last := rfl
@[simp] theorem State.writeSens_rspValid (v : Byte) : (s.writeSens v).rspValid = s.rspValid := rfl
@[simp] theorem State.writeSens_rsp (v : Byte) : (s.writeSens v).rsp = s.rsp := rfl
@[simp] theorem State.writeSens_now (v : Byte) : (s.writeSens v).now = s.now := rfl
@[simp] theorem State.writeSens_host (v : Byte) : (s.writeSens v).host = s.host := rfl
@[simp] theorem State.writeSens_draws (v : Byte) : (s.writeSens v).draws = s.draws := rfl

/-! Fields after `LAST <- v`. -/

@[simp] theorem State.writeLast_stateReg (v : Time) : (s.writeLast v).stateReg = s.stateReg := rfl
@[simp] theorem State.writeLast_sens (v : Time) : (s.writeLast v).sens = s.sens := rfl
@[simp] theorem State.writeLast_last (v : Time) : (s.writeLast v).last = v := rfl
@[simp] theorem State.writeLast_rspValid (v : Time) : (s.writeLast v).rspValid = s.rspValid := rfl
@[simp] theorem State.writeLast_rsp (v : Time) : (s.writeLast v).rsp = s.rsp := rfl
@[simp] theorem State.writeLast_now (v : Time) : (s.writeLast v).now = s.now := rfl
@[simp] theorem State.writeLast_host (v : Time) : (s.writeLast v).host = s.host := rfl
@[simp] theorem State.writeLast_draws (v : Time) : (s.writeLast v).draws = s.draws := rfl

/-! Fields after `respond(v)`. -/

@[simp] theorem State.respondSome_stateReg (v : Byte) : (s.respond (some v)).stateReg = s.stateReg := rfl
@[simp] theorem State.respondSome_sens (v : Byte) : (s.respond (some v)).sens = s.sens := rfl
@[simp] theorem State.respondSome_last (v : Byte) : (s.respond (some v)).last = s.last := rfl
@[simp] theorem State.respondSome_rspValid (v : Byte) : (s.respond (some v)).rspValid = true := rfl
@[simp] theorem State.respondSome_rsp (v : Byte) : (s.respond (some v)).rsp = v := rfl
@[simp] theorem State.respondSome_now (v : Byte) : (s.respond (some v)).now = s.now := rfl
@[simp] theorem State.respondSome_host (v : Byte) : (s.respond (some v)).host = s.host := rfl
@[simp] theorem State.respondSome_draws (v : Byte) : (s.respond (some v)).draws = s.draws := rfl

/-! Fields after `respond(none)`. -/

@[simp] theorem State.respondNone_stateReg : (s.respond none).stateReg = s.stateReg := rfl
@[simp] theorem State.respondNone_sens : (s.respond none).sens = s.sens := rfl
@[simp] theorem State.respondNone_last : (s.respond none).last = s.last := rfl
@[simp] theorem State.respondNone_rspValid : (s.respond none).rspValid = false := rfl
@[simp] theorem State.respondNone_rsp : (s.respond none).rsp = s.rsp := rfl
@[simp] theorem State.respondNone_now : (s.respond none).now = s.now := rfl
@[simp] theorem State.respondNone_host : (s.respond none).host = s.host := rfl
@[simp] theorem State.respondNone_draws : (s.respond none).draws = s.draws := rfl

/-! Fields after a clock value on port `now`. -/

@[simp] theorem State.presentNow_stateReg (t : Time) : (s.presentNow t).stateReg = s.stateReg := rfl
@[simp] theorem State.presentNow_sens (t : Time) : (s.presentNow t).sens = s.sens := rfl
@[simp] theorem State.presentNow_last (t : Time) : (s.presentNow t).last = s.last := rfl
@[simp] theorem State.presentNow_rspValid (t : Time) : (s.presentNow t).rspValid = s.rspValid := rfl
@[simp] theorem State.presentNow_rsp (t : Time) : (s.presentNow t).rsp = s.rsp := rfl
@[simp] theorem State.presentNow_now (t : Time) : (s.presentNow t).now = t := rfl
@[simp] theorem State.presentNow_host (t : Time) : (s.presentNow t).host = s.host := rfl
@[simp] theorem State.presentNow_draws (t : Time) : (s.presentNow t).draws = s.draws := rfl

/-! Fields after the host's events to come. -/

@[simp] theorem State.setHost_stateReg (h : List HostEvent) : (s.setHost h).stateReg = s.stateReg := rfl
@[simp] theorem State.setHost_sens (h : List HostEvent) : (s.setHost h).sens = s.sens := rfl
@[simp] theorem State.setHost_last (h : List HostEvent) : (s.setHost h).last = s.last := rfl
@[simp] theorem State.setHost_rspValid (h : List HostEvent) : (s.setHost h).rspValid = s.rspValid := rfl
@[simp] theorem State.setHost_rsp (h : List HostEvent) : (s.setHost h).rsp = s.rsp := rfl
@[simp] theorem State.setHost_now (h : List HostEvent) : (s.setHost h).now = s.now := rfl
@[simp] theorem State.setHost_host (h : List HostEvent) : (s.setHost h).host = h := rfl
@[simp] theorem State.setHost_draws (h : List HostEvent) : (s.setHost h).draws = s.draws := rfl

/-! Fields after the hardware reset (R160). -/

@[simp] theorem State.resetBlock_stateReg : (s.resetBlock).stateReg = 0x00 := rfl
@[simp] theorem State.resetBlock_sens : (s.resetBlock).sens = Config.sensReset := rfl
@[simp] theorem State.resetBlock_last : (s.resetBlock).last = 0 := rfl
@[simp] theorem State.resetBlock_rspValid : (s.resetBlock).rspValid = false := rfl
@[simp] theorem State.resetBlock_rsp : (s.resetBlock).rsp = 0x00 := rfl
@[simp] theorem State.resetBlock_now : (s.resetBlock).now = s.now := rfl
@[simp] theorem State.resetBlock_host : (s.resetBlock).host = s.host := rfl
@[simp] theorem State.resetBlock_draws : (s.resetBlock).draws = s.draws := rfl

/-! Fields after a power loss (R31). -/

@[simp] theorem State.losePower_stateReg : (s.losePower).stateReg = Config.lostState s.draws := rfl
@[simp] theorem State.losePower_sens : (s.losePower).sens = Config.lostSens s.draws := rfl
@[simp] theorem State.losePower_last : (s.losePower).last = Config.lostLast s.draws := rfl
@[simp] theorem State.losePower_rspValid : (s.losePower).rspValid = Config.lostRspValid s.draws := rfl
@[simp] theorem State.losePower_rsp : (s.losePower).rsp = Config.lostRsp s.draws := rfl
@[simp] theorem State.losePower_now : (s.losePower).now = s.now := rfl
@[simp] theorem State.losePower_host : (s.losePower).host = s.host := rfl
@[simp] theorem State.losePower_draws : (s.losePower).draws = s.draws + 1 := rfl

end Sys2Proof.Machine
end

