-- ==== Sys2Proof/Laws/Ops.lean ====
section
/-! SUPPORT. What each shared operation can do, said once. -/

namespace Sys2Proof.Machine

/-! ## The transition ROM -/

/-- The ROM is in canonical form. No operation writes a memory (R44), so this is all that canonical form asks. -/
theorem transitionRom_wf : transitionRom.wf = true := by decide

/-- The table of R42 meets R43, so SAMPLE never refuses it. -/
theorem transitionRom_admitted : transitionRom.admitted = true := by decide

/-- A read that answers reads a listed cell. -/
theorem Memory.read_mem {rom : Memory} {addr : Nat} {c : Byte} (h : rom.read addr = some c) : (addr, c) ∈ rom := by
  induction rom with
  | nil => simp [Memory.read] at h
  | cons d m ih =>
    simp only [Memory.read] at h
    split at h
    · rename_i hd
      cases h
      subst hd
      exact List.mem_cons_self
    · exact List.mem_cons_of_mem _ (ih h)

/-- What a property of all cells gives for one cell. -/
theorem Memory.allCells_read {rom : Memory} {p : BitVec 4 → Symbol → Byte → Bool} (h : rom.allCells p = true)
    {id : Nat} (hid : id < 6) (sym : Symbol) :
    ∃ c, rom.read (romAddress id sym) = some c ∧ p (BitVec.ofNat 4 id) sym c = true := by
  have hs : sym.toNat < 4 := sym.isLt
  unfold Memory.allCells at h
  have h1 := (List.all_eq_true.mp h) id (List.mem_range.mpr hid)
  have h2 := (List.all_eq_true.mp h1) sym.toNat (List.mem_range.mpr hs)
  simp only [romAddress]
  split at h2
  · cases h2
  · rename_i c hc
    exact ⟨c, hc, by simpa using h2⟩

/-- What admission says: the shape and the six clauses of R43. -/
theorem Memory.admitted_clauses {rom : Memory} (h : rom.admitted = true) :
    rom.shapeOk = true ∧ rom.closed = true ∧ rom.flagsOnArrival = true ∧ rom.rejectsReversal = true
    ∧ rom.needsTwoReadings = true ∧ rom.followsGrayPaths = true ∧ rom.absorbsRest = true := by
  simpa only [Memory.admitted, Bool.and_eq_true, and_assoc] using h

/-- A sequence of symbols whose first cell is there gives that cell's raw result, then those of the rest. -/
theorem Memory.rawsAlong_cons {rom : Memory} {id : Nat} {sym : Symbol} {c : Byte} (rest : List Symbol)
    (h : rom.read (romAddress id sym) = some c) :
    rom.rawsAlong id (sym :: rest) = (rom.rawsAlong (rowIndex c) rest).map (rawOfByte c :: ·) := by
  simp only [Memory.rawsAlong, h]

/-- A sequence of symbols whose first cell is there reaches what the rest reaches from that cell's state. -/
theorem Memory.idAlong_cons {rom : Memory} {id : Nat} {sym : Symbol} {c : Byte} (rest : List Symbol)
    (h : rom.read (romAddress id sym) = some c) :
    rom.idAlong id (sym :: rest) = rom.idAlong (rowIndex c) rest := by
  simp only [Memory.idAlong, h]

/-- An admitted table lists only addresses below 24. -/
theorem Memory.read_lt {rom : Memory} (h : rom.admitted = true) {addr : Nat} {c : Byte}
    (hr : rom.read addr = some c) : addr < 24 := by
  have hs : rom.map Prod.fst = List.range 24 := by
    simpa [Memory.shapeOk, Config.stateCount, Config.symbolCount] using (Memory.admitted_clauses h).1
  have hm : addr ∈ rom.map Prod.fst := List.mem_map.mpr ⟨_, Memory.read_mem hr, rfl⟩
  rw [hs] at hm
  exact List.mem_range.mp hm

/-! ## SAMPLE -/

variable (cell : Byte) (s : State)

@[simp] theorem storeCell_stateReg : (storeCell cell s).stateReg = cell := by
  unfold storeCell
  split <;> rfl

@[simp] theorem storeCell_sens : (storeCell cell s).sens = s.sens := by
  unfold storeCell
  split <;> rfl

theorem storeCell_last : (storeCell cell s).last = if rawOfByte cell ≠ 0 then s.now else s.last := by
  unfold storeCell
  split <;> rfl

@[simp] theorem storeCell_rspValid : (storeCell cell s).rspValid = true := by
  unfold storeCell
  split <;> rfl

theorem storeCell_rsp : (storeCell cell s).rsp =
    if rawOfByte cell ≠ 0 then resultByte (rawOfByte cell * multiplier (tierOf (elapsed s.now s.last) s.sens))
    else resultByte 0 := by
  unfold storeCell
  split <;> rfl

@[simp] theorem storeCell_now : (storeCell cell s).now = s.now := by
  unfold storeCell
  split <;> rfl

@[simp] theorem storeCell_host : (storeCell cell s).host = s.host := by
  unfold storeCell
  split <;> rfl

@[simp] theorem storeCell_draws : (storeCell cell s).draws = s.draws := by
  unfold storeCell
  split <;> rfl

variable {cell s}

/-- All a SAMPLE over some table can do: store the cell it reads, fault where there is none, or refuse the table. -/
theorem sampleWith_cases {rom : Memory} {a b : Bool} {o : Outcome} (h : sampleWith rom a b s = o) :
    (rom.admitted = true ∧ ∃ c, rom.read (romAddress (rowIndex s.stateReg) (symbol a b)) = some c
      ∧ o = .next (storeCell c s))
    ∨ (rom.admitted = true ∧ rom.read (romAddress (rowIndex s.stateReg) (symbol a b)) = none
      ∧ o = .fault (.romAddressUnused (romAddress (rowIndex s.stateReg) (symbol a b))))
    ∨ (rom.admitted = false ∧ o = .refused .tableNotAdmitted) := by
  unfold sampleWith at h
  split at h
  · rename_i ha
    split at h
    · rename_i hr
      exact .inr (.inl ⟨ha, hr, h.symm⟩)
    · rename_i c hr
      exact .inl ⟨ha, c, hr, h.symm⟩
  · rename_i ha
    exact .inr (.inr ⟨by simpa using ha, h.symm⟩)

/-- What a SAMPLE over some table has done when it answers a next state. -/
theorem sampleWith_next {rom : Memory} {a b : Bool} {t : State} (h : sampleWith rom a b s = .next t) :
    rom.admitted = true ∧ ∃ c, rom.read (romAddress (rowIndex s.stateReg) (symbol a b)) = some c
      ∧ t = storeCell c s := by
  rcases sampleWith_cases h with ⟨ha, c, hr, ho⟩ | ⟨_, _, ho⟩ | ⟨_, ho⟩
  · exact ⟨ha, c, hr, by cases ho; rfl⟩
  · cases ho
  · cases ho

/-! ## The commands -/

theorem exec_sample (a b : Bool) (s : State) : exec (.sample a b) s = sampleWith transitionRom a b s := rfl

theorem exec_getsens (s : State) : exec .getsens s = execGetsens s := rfl

theorem exec_setsens (v : Byte) (s : State) : exec (.setsens v) s = execSetsens v s := rfl

theorem exec_init (v : Byte) (s : State) : exec (.init v) s = execInit v s := rfl

/-- The effect of each command that answers a next state. -/
theorem exec_next {i : Instr} {t : State} (h : exec i s = .next t) :
    (∃ a b c, i = .sample a b ∧ transitionRom.read (romAddress (rowIndex s.stateReg) (symbol a b)) = some c
      ∧ t = storeCell c s)
    ∨ (∃ v, i = .setsens v ∧ t = (s.writeSens v).respond none)
    ∨ (i = .getsens ∧ t = s.respond (some s.sens))
    ∨ (∃ v, i = .init v ∧ t = (((s.writeState 0x00).writeSens v).writeLast 0).respond none) := by
  cases i with
  | sample a b =>
    obtain ⟨_, c, hr, ht⟩ := sampleWith_next (rom := transitionRom) h
    exact .inl ⟨a, b, c, rfl, hr, ht⟩
  | setsens v => cases h; exact .inr (.inl ⟨v, rfl, rfl⟩)
  | getsens => cases h; exact .inr (.inr (.inl ⟨rfl, rfl⟩))
  | init v => cases h; exact .inr (.inr (.inr ⟨v, rfl, rfl⟩))

/-! ## The step -/

/-- All a request can do. -/
theorem performRequest_cases (r : Request) (s : State) :
    (∃ i, decode r.cmd = .ok i ∧ performRequest r s = exec i (s.presentNow r.now))
    ∨ ∃ why, decode r.cmd = .error why ∧ performRequest r s = .refused (.illegalWord r.cmd why) := by
  unfold performRequest
  cases hd : decode r.cmd with
  | ok i => exact .inl ⟨i, rfl, rfl⟩
  | error why => exact .inr ⟨why, rfl, rfl⟩

/-- All a step can do: idle, or perform the next host event with the rest of the host's events left. -/
theorem step_cases (s : State) :
    (s.host = [] ∧ step s = .next s)
    ∨ ∃ e rest, s.host = e :: rest ∧ step s = performEvent e (s.setHost rest) := by
  unfold step
  cases hh : s.host with
  | nil => exact .inl ⟨rfl, rfl⟩
  | cons e rest => exact .inr ⟨e, rest, rfl, rfl⟩

end Sys2Proof.Machine
end

