-- ==== Sys2Proof/Laws/PerInstr.lean ====
section
/-! SUPPORT. The per-instruction families of LAWS.json. -/

namespace Sys2Proof.Laws.EncodesItsRow

/-- The word of a command is its own row's word of the opcode table: its bits under the row's mask are the row's (R64),
and the row is in the table. -/
def Statement (i : Instr) : Prop :=
  encode i &&& (opcodeRow i).mask = (opcodeRow i).bits ∧ opcodeRow i ∈ opcodeTable

theorem sample (a b : Bool) : Statement (.sample a b) := by
  revert a b
  unfold Statement
  decide

theorem setsens (v : Byte) : Statement (.setsens v) := by
  refine ⟨?_, by simp [opcodeTable, opcodeRow]⟩
  apply BitVec.eq_of_toNat_eq
  revert v
  decide +kernel

theorem getsens : Statement .getsens := by
  unfold Statement
  decide

theorem init (v : Byte) : Statement (.init v) := by
  refine ⟨?_, by simp [opcodeTable, opcodeRow]⟩
  apply BitVec.eq_of_toNat_eq
  revert v
  decide +kernel

end Sys2Proof.Laws.EncodesItsRow
end

