-- ==== Sys2Proof/Tests/Slice0.lean ====
section
/-! SUPPORT. Small tests of the model, and a witness for the hypotheses of each statement that has some. Expected values
are the spec's own: its encodings (R61, R64), its tables (R42, R107), its worked examples (R85, R104, R120 to R122) and
the vectors of spec/95_test_vectors.md. -/

namespace Sys2Proof.Tests

open Sys2Proof.Machine Sys2Proof.Safety

/-- A state with these values in STATE, SENS and LAST and on port `now`, and all else as after reset. -/
def mk (stateReg sens : Byte) (last now : Time) : State :=
  { State.reset with stateReg := stateReg, sens := sens, last := last, now := now }

/-- The reset state with these host events to come. -/
def driven (h : List HostEvent) : State := { State.reset with host := h }

/-- STATE, SENS, LAST, rsp_valid and rsp of the next state, if the outcome is one. -/
def regs : Outcome → Option (Byte × Byte × Time × Bool × Byte)
  | .next t => some (t.stateReg, t.sens, t.last, t.rspValid, t.rsp)
  | _ => none

/-- The reason of a refusal, if the outcome is one. -/
def refusal : Outcome → Option Refusal
  | .refused r => some r
  | _ => none

/-- The reason of a fault, if the outcome is one. -/
def faultOf : Outcome → Option Fault
  | .fault f => some f
  | _ => none

/-- Whether a word decodes to this command. -/
def decodesTo (w : Command) (i : Instr) : Bool := decide ((decode w).toOption = some i)

/-! ## Well-formedness: each check refuses an ill-formed line (R68, R69) -/

theorem test_wf_sample : (AsmLine.sample 1 1 0xFFFFFFFF).wellFormed = true := by decide
theorem test_illformed_pin1 : (AsmLine.sample 2 0 0).wellFormed = false := by decide
theorem test_illformed_pin2 : (AsmLine.sample 0 2 0).wellFormed = false := by decide
theorem test_illformed_clock : (AsmLine.sample 0 0 0x100000000).wellFormed = false := by decide
theorem test_illformed_setsens : (AsmLine.setsens 256).wellFormed = false := by decide
theorem test_illformed_init : (AsmLine.init (some 256)).wellFormed = false := by decide
theorem test_illformed_samplesym : (AsmLine.samplesym 4 0).wellFormed = false := by decide
theorem test_illformed_samplesym_clock : (AsmLine.samplesym 3 0x100000000).wellFormed = false := by decide

/-- Every command is well formed: its operand types admit nothing else (R63, R141). -/
theorem test_wf_instr : ∀ i : Instr, i.wellFormed = true := by
  intro i
  cases i with
  | sample a b => cases a <;> cases b <;> decide
  | setsens v => have := v.isLt; simp only [Instr.wellFormed, decide_eq_true_eq]; omega
  | getsens => rfl
  | init v => have := v.isLt; simp only [Instr.wellFormed, decide_eq_true_eq]; omega

/-! ## Decoding: words written out bit by bit from R61 -/

theorem test_decode_sample : decodesTo 0b0000000000000010 (.sample true false) = true := by decide
theorem test_decode_sample_pin2 : decodesTo 0b0000000000000001 (.sample false true) = true := by decide
theorem test_decode_setsens : decodesTo 0b0100000001100101 (.setsens 0x65) = true := by decide
theorem test_decode_getsens : decodesTo 0b1000000000000000 .getsens = true := by decide
theorem test_decode_init : decodesTo 0b1100000010000001 (.init 0x81) = true := by decide
theorem test_encode_init : encode (.init 0x64) = 0xC064 := by decide
theorem test_encode_sample : encode (.sample true false) = 0x0002 := by decide
theorem test_table_word : decodeTableWord 16 0xC064 = some (.init 100) := by decide
theorem test_table_word_illegal : decodeTableWord 16 0xC164 = none := by decide
theorem test_fetch_runs_first :
    regs (step (State.reset.withFetchWord 16 0x40FF)) = some (0x00, 255, 0, false, 0x00) := by decide

/-! ## The transition ROM -/

/-- R42: the flat image. -/
theorem test_rom_image : transitionRom.map Prod.snd =
    [0x03, 0x02, 0x01, 0x00, 0x23, 0x00, 0x01, 0x00, 0x13, 0x02, 0x00, 0x00,
     0x03, 0x05, 0x04, 0x00, 0x03, 0x03, 0x04, 0x10, 0x03, 0x05, 0x03, 0x20] := by decide

/-- R48: address 24 is unused. -/
theorem test_rom_unused : transitionRom.read 24 = none := by decide

/-- A table with one cell changed, for the refusals of R43. -/
def romWith (addr : Nat) (v : Byte) : Memory := transitionRom.map fun c => if c.1 = addr then (addr, v) else c

theorem test_table_closure : (romWith 0 0x06).closed = false := by decide
theorem test_table_direction_both : (romWith 8 0x33).closed = false := by decide
theorem test_table_flag_from_rest : (romWith 0 0x13).flagsOnArrival = false := by decide
theorem test_table_reversal : (romWith 7 0x20).rejectsReversal = false := by decide
theorem test_table_two_readings : (romWith 9 0x13).needsTwoReadings = false := by decide
theorem test_table_gray_path : (romWith 19 0x00).followsGrayPaths = false := by decide
/-- CW_BEGIN on 00 to START with the flag: 00, 01, 00 would then end flagged, and 00, 10, 11 would give no step. -/
theorem test_table_wrong_arrival : (romWith 8 0x10).rejectsReversal = false := by decide
theorem test_table_wrong_arrival_gray : (romWith 8 0x10).followsGrayPaths = false := by decide
/-- CCW_BEGIN on 10 to START_MIRROR: 11, 10, 10, 10, 11 would then end flagged. -/
theorem test_table_leaves_side : (romWith 6 0x03).rejectsReversal = false := by decide
/-- CCW_BEGIN on 01 to CW_BEGIN: two readings that do not agree would be followed by a flag. -/
theorem test_table_turns_midway : (romWith 5 0x02).needsTwoReadings = false := by decide
/-- CW_BEGIN kept on 10: 11, 01, 10, 00 would then give a step from readings that do not agree. -/
theorem test_table_wrong_reading_kept : (romWith 10 0x02).needsTwoReadings = false := by decide
/-- A table other than that of R42 that meets every clause: a repeated intermediate symbol goes back to START. -/
theorem test_table_other_admitted : (romWith 6 0x00).admitted = true := by decide
theorem test_table_rest_absorbed : (romWith 3 0x03).absorbsRest = false := by decide

/-! ## SAMPLE -/

/-- The worked example of R85. -/
theorem test_sample_worked_example :
    regs (exec (.sample false false) (mk 0x02 100 1070 1080)) = some (0x13, 100, 1080, true, 0x03) := by decide

/-- P2 line 11 of spec/95_test_vectors.md: a counter-clockwise step in the medium tier. -/
theorem test_sample_ccw_medium :
    regs (exec (.sample false false) (mk 0x01 50 20 60)) = some (0x23, 50, 60, true, 0xFE) := by decide

/-- The stale flag of 0x23 is no part of the row (section 2 of spec/95_test_vectors.md). -/
theorem test_sample_stale_flag :
    regs (exec (.sample false true) (mk 0x23 100 7 9)) = some (0x05, 100, 7, true, 0x00) := by decide

theorem test_sample_unused_address :
    faultOf (exec (.sample true true) (mk 0x06 100 0 0)) = some (.romAddressUnused 27) := by decide

/-! ## The classifier: boundary rows of section 3 of spec/95_test_vectors.md -/

theorem test_tier_rounds_down : (speedScale 1 2 0 3).1 = 2 := by decide
theorem test_tier_fast_edge : (speedScale 1 1049 1000 100).1 = 3 := by decide
theorem test_tier_medium_edge : (speedScale (-1) 1050 1000 100).1 = -2 := by decide
theorem test_tier_slow_edge : (speedScale 1 255 0 255).1 = 1 := by decide
theorem test_tier_wrap : (speedScale (-1) 0x00000004 0xFFFFFFF6 100).1 = -3 := by decide
theorem test_tier_clock_back : (speedScale 1 999 1000 100).1 = 1 := by decide
theorem test_result_byte : resultByte (-3) = 0xFD := by decide

/-! ## SETSENS, GETSENS, INIT: rows of section 4 of spec/95_test_vectors.md -/

theorem test_setsens :
    regs (exec (.setsens 0) { mk 0x02 100 50 0 with rspValid := true, rsp := 0x64 })
      = some (0x02, 0, 50, false, 0x64) := by decide
theorem test_getsens : regs (exec .getsens (mk 0x04 37 9 0)) = some (0x04, 37, 9, true, 0x25) := by decide
theorem test_init : regs (exec (.init 100) (mk 0x05 7 12345 0)) = some (0x00, 100, 0, false, 0x00) := by decide

/-! ## Host events -/

theorem test_reset_beats_command :
    regs (step { mk 0x13 7 9 0 with host := [.reset [⟨0x40FF, 5⟩]] }) = some (0x00, 100, 0, false, 0x00) := by decide
theorem test_overlap_refused :
    refusal (step (driven [.overlap ⟨0x8000, 0⟩ ⟨0x8000, 0⟩])) = some .overlappingRequests := by decide
theorem test_illegal_refused :
    refusal (step (driven [.request ⟨0x4164, 0⟩])) = some (.illegalWord 0x4164 .reservedBitsI8) := by decide

/-! ## The assembler (R68, R69) -/

/-- `SAMPLE 1, 0 @ 1200` is word 0x0002 with now = 1200 (L1-2). -/
theorem test_asm_sample :
    assembleText ['S', 'A', 'M', 'P', 'L', 'E', ' ', '1', ',', ' ', '0', ' ', '@', ' ', '1', '2', '0', '0']
      = some (0x0002, some 1200) := by decide
/-- `init` is `INIT 100` in any case of letters (P4). -/
theorem test_asm_init_default : assembleText ['i', 'n', 'I', 't'] = some (0xC064, none) := by decide
theorem test_asm_setsens_hex :
    assembleText ['S', 'E', 'T', 'S', 'E', 'N', 'S', ' ', '0', 'x', 'F', 'f'] = some (0x40FF, none) := by decide
theorem test_asm_out_of_range :
    assembleText ['S', 'E', 'T', 'S', 'E', 'N', 'S', ' ', '2', '5', '6'] = none := by decide
theorem test_asm_samplesym : assemble (.samplesym 2 300) = some (0x0002, some 300) := by decide

/-! ## Witnesses: concrete values that meet all hypotheses of a statement, one for each clause that has its own -/

theorem witness_ResetLeavesTheSpecValues :
    (driven [.reset [⟨0x4000, 5⟩], .quiet]).host = .reset [⟨0x4000, 5⟩] :: [.quiet] := rfl

theorem witness_IdleStepKeepsTheState :
    State.reset.host = [] ∧ (driven [.quiet]).host = .quiet :: [] := ⟨rfl, rfl⟩

theorem witness_PowerLossFreesEveryRegister : (driven [.powerLoss]).host = .powerLoss :: [] := rfl

theorem witness_EveryStepKeepsStateLegal :
    StateLegal { mk 0x25 100 0 5 with host := [.request ⟨0x0003, 9⟩] }
    ∧ ({ mk 0x25 100 0 5 with host := [.request ⟨0x0003, 9⟩] } : State).host.head? ≠ some .powerLoss
    ∧ (regs (step { mk 0x25 100 0 5 with host := [.request ⟨0x0003, 9⟩] })).isSome = true := by decide

theorem witness_LawfulHostIsNeverStopped :
    StateLegal (driven [.quiet, .request ⟨0xC0FF, 1⟩, .reset [⟨0x0004, 0⟩], .request ⟨0x0003, 0⟩])
    ∧ (driven [.quiet, .request ⟨0xC0FF, 1⟩, .reset [⟨0x0004, 0⟩], .request ⟨0x0003, 0⟩]).host.all lawfulEvent
      = true := by decide

theorem witness_DecodeFollowsTheOpcodeTable :
    0x0003#16 &&& 0xFFFC#16 = 0x0000#16 ∧ 0x40FF#16 &&& 0xFF00#16 = 0x4000#16
    ∧ 0x8000#16 &&& 0xFFFF#16 = 0x8000#16 ∧ 0xC000#16 &&& 0xFF00#16 = 0xC000#16
    ∧ (0x0004#16 &&& 0xFFFC#16 ≠ 0x0000#16 ∧ 0x0004#16 &&& 0xFF00#16 ≠ 0x4000#16
      ∧ 0x0004#16 &&& 0xFFFF#16 ≠ 0x8000#16 ∧ 0x0004#16 &&& 0xFF00#16 ≠ 0xC000#16) := by decide

theorem witness_StepRunsTheDecodedCommand :
    (driven [.request ⟨0xC0FF, 3⟩]).host = .request ⟨0xC0FF, 3⟩ :: []
    ∧ decodesTo 0xC0FF (.init 255) = true := by decide

theorem witness_IllegalWordsAreRefused :
    (driven [.request ⟨0x0004, 3⟩]).host = .request ⟨0x0004, 3⟩ :: []
    ∧ ((0x0004#16).extractLsb' 14 2 = 0b00#2 ∧ (0x0004#16).extractLsb' 2 12 ≠ 0#12)
    ∧ ((0x4100#16).extractLsb' 14 2 = 0b01#2 ∧ (0x4100#16).extractLsb' 8 6 ≠ 0#6)
    ∧ ((0xE000#16).extractLsb' 14 2 = 0b11#2 ∧ (0xE000#16).extractLsb' 8 6 ≠ 0#6)
    ∧ ((0x8001#16).extractLsb' 14 2 = 0b10#2 ∧ (0x8001#16).extractLsb' 0 14 ≠ 0#14) := by decide

theorem witness_OverlapIsRefused :
    (driven [.overlap ⟨0x8000, 0⟩ ⟨0x0003, 1⟩]).host = .overlap ⟨0x8000, 0⟩ ⟨0x0003, 1⟩ :: [] := rfl

theorem witness_RomHoldsTheSpecTable :
    transitionRom.read 0 = some 0x03 ∧ transitionRom.read 8 = some 0x13 ∧ transitionRom.read 23 = some 0x20 := by decide

theorem witness_AdmittedTablesAreClosed :
    transitionRom.admitted = true ∧ 5 ≤ 5 ∧ (transitionRom.read (5 * 4 + (3#2 : Symbol).toNat)).isSome = true
    ∧ dirField 0x20 ≠ 0b00#2 := by decide

theorem witness_AdmittedTablesRejectReversal :
    transitionRom.admitted = true ∧ (romWith 6 0x00).admitted = true ∧ 5 ≤ 5
    ∧ (0b00#2 = 0b00#2 ∨ 0b00#2 = 0b11#2) ∧ (∀ m ∈ ([] : List Symbol), m = 0b01#2 ∨ m = 0b10#2)
    ∧ (0b11#2 = 0b00#2 ∨ 0b11#2 = 0b11#2) ∧ (∀ m ∈ [0b01#2, 0b10#2, 0b10#2], m = 0b01#2 ∨ m = 0b10#2) := by decide

theorem witness_AdmittedTablesNeedTwoReadings :
    transitionRom.admitted = true ∧ 5 ≤ 5
    ∧ (transitionRom.read (0 * 4 + (0b10#2).toNat) = some 0x01 ∧ idField 0x01 = 1#4)
    ∧ (transitionRom.read (4 * 4 + (0b10#2).toNat) = some 0x04 ∧ idField 0x04 = 4#4)
    ∧ (transitionRom.read (2 * 4 + (0b01#2).toNat) = some 0x02 ∧ idField 0x02 = 2#4)
    ∧ (transitionRom.read (3 * 4 + (0b01#2).toNat) = some 0x05 ∧ idField 0x05 = 5#4)
    ∧ (transitionRom.read (2 * 4 + (0b00#2).toNat) = some 0x13 ∧ dirField 0x13 = 0b01#2)
    ∧ (transitionRom.read (5 * 4 + (0b11#2).toNat) = some 0x20 ∧ dirField 0x20 = 0b10#2) := by decide

theorem witness_AdmittedTablesFollowCleanDetents :
    transitionRom.admitted = true ∧ (romWith 6 0x00).admitted = true ∧ 0 ≤ 5 ∧ 5 ≤ 5 := by decide

theorem witness_TableNotAdmittedIsRefused : (romWith 8 0x33).admitted = false ∧ Memory.admitted [] = false := by decide

theorem witness_SampleFollowsItsPseudocode :
    (idField (mk 0x00 100 0 0).stateReg).toNat ≤ 5 ∧ (idField (mk 0x05 100 0 0).stateReg).toNat ≤ 5
    ∧ (driven [.request ⟨0x0003, 7⟩]).host = .request ⟨0x0003, 7⟩ :: []
    ∧ (0x0003#16) &&& 0xFFFC#16 = 0x0000#16 := by decide

theorem witness_SampleIsClosedOverEveryAdmittedTable :
    transitionRom.admitted = true ∧ StateLegal (mk 0x00 100 0 0) ∧ StateLegal (mk 0x25 0 1 2) := by decide

theorem witness_UnusedRomAddressFaults :
    5 < (idField (mk 0x06 100 0 0).stateReg).toNat ∧ 5 < (idField (mk 0xFF 100 0 0).stateReg).toNat := by decide

theorem witness_DirectionFlagGivesTheRawResult :
    dirField 0x13 = 0b01#2 ∧ dirField 0x23 = 0b10#2 ∧ dirField 0x05 = 0b00#2 ∧ dirField 0x30 = 0b11#2 := by decide

theorem witness_ClockIsReadOnlyByACompletedStep :
    regs (exec (.sample false true) (mk 0x00 100 9 5)) = some (0x02, 100, 9, true, 0x00)
    ∧ dirField 0x02 = 0b00#2 ∧ (regs (exec .getsens (mk 0x13 100 9 5))).isSome = true := by decide

theorem witness_StaleFlagIsInvisible : SameButFlag (mk 0x13 100 9 5) (mk 0x03 100 9 5) := by decide

theorem witness_NoTwoStepsInARow :
    regs (sampleWith transitionRom false false (mk 0x02 100 0 9)) = some (0x13, 100, 9, true, 0x03)
    ∧ dirField 0x13 ≠ 0b00#2
    ∧ (regs (sampleWith transitionRom true true (mk 0x13 100 9 10))).isSome = true := by decide

theorem witness_HalfStepPathsGiveOneStep :
    idField (mk 0x00 100 0 0).stateReg = 0#4 ∧ idField (mk 0x13 100 0 0).stateReg = 3#4 := by decide

theorem witness_BounceNeverSteps :
    (∀ r ∈ [(⟨0x0002, 1⟩ : Request), ⟨0x0003, 2⟩], r.cmd = 0x0003#16 ∨ r.cmd = 0x0002#16)
    ∧ (∀ r ∈ [(⟨0x0001, 1⟩ : Request), ⟨0x0003, 2⟩], r.cmd = 0x0003#16 ∨ r.cmd = 0x0001#16)
    ∧ (∀ r ∈ [(⟨0x0002, 1⟩ : Request), ⟨0x0000, 2⟩], r.cmd = 0x0000#16 ∨ r.cmd = 0x0002#16)
    ∧ (∀ r ∈ [(⟨0x0001, 1⟩ : Request), ⟨0x0000, 2⟩], r.cmd = 0x0000#16 ∨ r.cmd = 0x0001#16)
    ∧ (idField (driven []).stateReg = 0#4 ∧ idField (mk 0x01 100 0 0).stateReg = 1#4
      ∧ idField (mk 0x02 100 0 0).stateReg = 2#4 ∧ idField (mk 0x03 100 0 0).stateReg = 3#4
      ∧ idField (mk 0x04 100 0 0).stateReg = 4#4 ∧ idField (mk 0x05 100 0 0).stateReg = 5#4)
    ∧ (driven [.request ⟨0x0002, 1⟩, .request ⟨0x0003, 2⟩]).host
        = [(⟨0x0002, 1⟩ : Request), ⟨0x0003, 2⟩].map .request := by decide

theorem witness_RestingSymbolFromRestGivesNoStep :
    idField (mk 0x20 100 0 0).stateReg = 0#4 ∧ idField (mk 0x03 100 0 0).stateReg = 3#4 := by decide

theorem witness_ElapsedToleratesWrapAndBackwardClock :
    0 < 2 ^ 32 ∧ 2 ^ 32 - 1 < 2 ^ 32 ∧ 0 < (1#32).toNat ∧ 0 < (0xFFFFFF01#32).toNat
    ∧ (0xFFFFFF01#32).toNat ≤ 2 ^ 32 - (255#8).toNat := by decide

theorem witness_ClockShiftIsInvisible :
    regs (exec (.sample false false) (mk 0x02 100 0xFFFFFFFE 5)) = some (0x13, 100, 5, true, 0x03) := by decide

theorem witness_SampleResultIsDirectionTimesTier :
    regs (exec (.sample true true) (mk 0x05 100 1000 1050)) = some (0x20, 100, 1050, true, 0xFE)
    ∧ (-3 : Int) ≤ -3 ∧ (-3 : Int) ≤ 3 := by decide

theorem witness_FirstStepIsTimedAgainstZero :
    regs (exec (.sample false false) (mk 0x02 100 0 100)) = some (0x13, 100, 100, true, 0x01)
    ∧ regs (exec (.sample false false) (mk 0x02 100 0 99)) = some (0x13, 100, 99, true, 0x02)
    ∧ regs (exec (.sample false false) (mk 0x02 100 0 49)) = some (0x13, 100, 49, true, 0x03)
    ∧ regs (exec (.sample false false) (mk 0x01 100 0 100)) = some (0x23, 100, 100, true, 0xFF)
    ∧ regs (exec (.sample false false) (mk 0x01 100 0 50)) = some (0x23, 100, 50, true, 0xFE)
    ∧ regs (exec (.sample false false) (mk 0x01 100 0 49)) = some (0x23, 100, 49, true, 0xFD) := by
  refine ⟨?_, ?_, ?_, ?_, ?_, ?_⟩ <;> decide

theorem witness_ZeroSensitivityGivesMagnitudeOne :
    (mk 0x02 0 5 5).sens = 0#8 ∧ regs (exec (.sample false false) (mk 0x02 0 5 5)) = some (0x13, 0, 5, true, 0x01) := by
  decide

theorem witness_SetsensWritesTheSensitivity :
    (driven [.request ⟨0x40FF, 7⟩]).host = .request ⟨0x40FF, 7⟩ :: []
    ∧ (0x40FF#16) &&& 0xFF00#16 = 0x4000#16
    ∧ regs (exec (.sample true false) (mk 0x00 100 9 5)) = some (0x01, 100, 9, true, 0x00)
    ∧ dirField 0x01 = 0b00#2 := by decide

theorem witness_GetsensRespondsWithTheSensitivity :
    (driven [.request ⟨0x8000, 7⟩]).host = .request ⟨0x8000, 7⟩ :: []
    ∧ (0x8000#16) &&& 0xFFFF#16 = 0x8000#16
    ∧ regs (exec (.setsens 255) (mk 0x13 7 9 0)) = some (0x13, 255, 9, false, 0x00)
    ∧ regs (exec (.init 0) (mk 0x13 7 9 0)) = some (0x00, 0, 0, false, 0x00) := by decide

theorem witness_InitConstructsTheDecoder :
    (driven [.request ⟨0xC064, 7⟩]).host = .request ⟨0xC064, 7⟩ :: []
    ∧ (0xC064#16) &&& 0xFF00#16 = 0xC000#16 := by decide

theorem witness_CommandsWriteOnlyTheirRegisters :
    regs (exec (.setsens 1) (mk 0x00 100 9 5)) = some (0x00, 1, 9, false, 0x00)
    ∧ regs (exec (.sample false true) (mk 0x00 100 9 5)) = some (0x02, 100, 9, true, 0x00)
    ∧ regs (exec (.sample false false) (mk 0x02 100 9 500)) = some (0x13, 100, 500, true, 0x01)
    ∧ regs (exec (.init 1) (mk 0x05 100 9 5)) = some (0x00, 1, 0, false, 0x00) := by
  refine ⟨?_, ?_, ?_, ?_⟩ <;> decide

theorem witness_ResponseFollowsTheCommand :
    regs (exec (.init 1) { mk 0x05 100 9 5 with rsp := 0xFD }) = some (0x00, 1, 0, false, 0xFD)
    ∧ regs (exec .getsens (mk 0x05 100 9 5)) = some (0x05, 100, 9, true, 0x64) := by decide

theorem witness_AssemblerProducesTheListedWords :
    (1 ≤ 1 ∧ 1 ≤ 1 ∧ 2 ^ 32 - 1 < 2 ^ 32) ∧ 255 ≤ 255 ∧ (3 ≤ 3 ∧ 0 < 2 ^ 32) := by decide

end Sys2Proof.Tests
end

-- ==== Proofs: the step on a request ====
section
/-! Equations for `step` and `performRequest` per kind of host event and per answer of the decoder, and what follows for
a request with a legal word (R8, R70). -/

namespace Sys2Proof.Machine

variable {s : State} {rest : List HostEvent} {r : Request}

theorem step_of_host_cons {e : HostEvent} (h : s.host = e :: rest) : step s = performEvent e (s.setHost rest) := by
  simp only [step, h]

theorem performRequest_of_decode_ok {i : Instr} (h : decode r.cmd = .ok i) (s : State) :
    performRequest r s = exec i (s.presentNow r.now) := by
  simp only [performRequest, h]

/-- A request step is `performRequest` once its event has been taken off the host's list. -/
theorem step_of_request (h : s.host = .request r :: rest) : step s = performRequest r (s.setHost rest) :=
  step_of_host_cons h

/-- Settles O11: the step performs the request, and a legal word makes the request the command it decodes to. -/
theorem stepRunsTheDecodedCommand : Obligations.StepRunsTheDecodedCommand := by
  intro s r rest i hhost hdecode
  calc step s
      = performRequest r (s.setHost rest) := step_of_request hhost
    _ = exec i ((s.setHost rest).presentNow r.now) := performRequest_of_decode_ok hdecode _
    _ = exec i { s with host := rest, now := r.now } := rfl

end Sys2Proof.Machine
end

-- ==== Proofs: the fields of STATE and the invariant of R24 ====
section
/-! The combined byte and its fields (R22); the bytes R24 allows in STATE are those an admitted table may hold (R43
clause 1), so every command and every host event but a power loss leaves a legal STATE. -/

namespace Sys2Proof.Machine

open Sys2Proof.Safety

variable {s t : State}

/-- Settles O15: two neighbouring bit fields join to one, and the widest field is the byte. -/
theorem combinedByteFields : Obligations.CombinedByteFields := by
  intro b
  have hhigh : topField b ++ dirField b = b.extractLsb' 4 4 :=
    BitVec.extractLsb'_append_extractLsb'_eq_extractLsb' rfl
  have hbyte : b.extractLsb' 4 4 ++ idField b = b.extractLsb' 0 8 :=
    BitVec.extractLsb'_append_extractLsb'_eq_extractLsb' rfl
  rw [hhigh, hbyte, BitVec.extractLsb'_eq_self]

/-! ## Legal bytes -/

theorem legalByte_iff {c : Byte} :
    legalByte c = true ↔ (idField c).toNat ≤ 5 ∧ dirField c ≠ 0b11#2 ∧ topField c = 0b00#2 := by
  simp [legalByte, Config.stateCount, Nat.lt_succ_iff, and_assoc]

theorem stateLegal_iff_legalByte : StateLegal s ↔ legalByte s.stateReg = true := legalByte_iff.symm

/-- A reset and an INIT leave 0x00 in STATE (R122, R160). -/
theorem stateLegal_of_stateReg_eq_zero (h : s.stateReg = 0x00#8) : StateLegal s := by
  rw [stateLegal_iff_legalByte, h]
  decide

theorem stateLegal_of_stateReg_eq (hs : StateLegal s) (h : t.stateReg = s.stateReg) : StateLegal t := by
  rw [stateLegal_iff_legalByte] at hs ⊢
  rwa [h]

/-- Settles O4. -/
theorem resetStateIsLegal : Obligations.ResetStateIsLegal := stateLegal_of_stateReg_eq_zero rfl

/-! ## The cells of an admitted table -/

/-- Every address below 24 is the address of a row and a symbol (R41). -/
theorem romAddress_div_mod (addr : Nat) : romAddress (addr / 4) (BitVec.ofNat 2 (addr % 4)) = addr := by
  simp [romAddress, Config.symbolCount, Nat.div_add_mod']

/-- R43 clause 1, of any cell that a read of an admitted table answers. -/
theorem Memory.legalByte_of_read {rom : Memory} (hrom : rom.admitted = true) {addr : Nat} {c : Byte}
    (hread : rom.read addr = some c) : legalByte c = true := by
  obtain ⟨-, hclosed, -⟩ := Memory.admitted_clauses hrom
  have hrow : addr / 4 < 6 := by have := Memory.read_lt hrom hread; omega
  obtain ⟨d, hd, hlegal⟩ := Memory.allCells_read hclosed hrow (BitVec.ofNat 2 (addr % 4))
  rw [romAddress_div_mod, hread] at hd
  cases hd
  exact hlegal

/-! ## What keeps STATE legal -/

/-- A SAMPLE stores a cell of the table, INIT stores 0x00, and the other two commands leave STATE. -/
theorem exec_keeps_stateLegal {i : Instr} (hs : StateLegal s) (h : exec i s = .next t) : StateLegal t := by
  rcases exec_next h with ⟨a, b, c, -, hread, rfl⟩ | ⟨v, -, rfl⟩ | ⟨-, rfl⟩ | ⟨v, -, rfl⟩
  · rw [stateLegal_iff_legalByte, storeCell_stateReg]
    exact Memory.legalByte_of_read transitionRom_admitted hread
  · exact stateLegal_of_stateReg_eq hs rfl
  · exact stateLegal_of_stateReg_eq hs rfl
  · exact stateLegal_of_stateReg_eq_zero rfl

theorem performRequest_keeps_stateLegal {r : Request} (hs : StateLegal s) (h : performRequest r s = .next t) :
    StateLegal t := by
  rcases performRequest_cases r s with ⟨i, -, hexec⟩ | ⟨why, -, hrefused⟩
  · exact exec_keeps_stateLegal (s := s.presentNow r.now) hs (hexec.symm.trans h)
  · cases hrefused.symm.trans h

theorem performEvent_keeps_stateLegal {e : HostEvent} (hs : StateLegal s) (he : e ≠ .powerLoss)
    (h : performEvent e s = .next t) : StateLegal t := by
  cases e with
  | quiet => cases h; exact hs
  | request r => exact performRequest_keeps_stateLegal hs h
  | overlap r q => cases h
  | reset presented => cases h; exact stateLegal_of_stateReg_eq_zero rfl
  | powerLoss => exact absurd rfl he

/-- Settles O5: an idle step keeps the state, and any other step performs the host's next event. -/
theorem everyStepKeepsStateLegal : Obligations.EveryStepKeepsStateLegal := by
  intro s t hs hnoLoss hstep
  rcases step_cases s with ⟨-, hidle⟩ | ⟨e, rest, hhost, hevent⟩
  · cases hidle.symm.trans hstep
    exact hs
  · have he : e ≠ .powerLoss := by simpa [hhost] using hnoLoss
    exact performEvent_keeps_stateLegal (s := s.setHost rest) hs he (hevent.symm.trans hstep)

end Sys2Proof.Machine
end

-- ==== Proofs: the stale direction flag ====
section
/-! SAMPLE takes its row from STATE[3:0] alone and replaces the whole byte (R26, R81, R82), and no other command reads
STATE. So states that differ at most in STATE[7:4] run alike. -/

namespace Sys2Proof.Safety

open Sys2Proof.Machine

variable {s t : State}

/-! ## The relation on states -/

/-- The second state is the first with another byte of the same id in STATE. -/
theorem sameButFlag_iff :
    SameButFlag s t ↔ ∃ v : Byte, idField s.stateReg = idField v ∧ t = s.writeState v := by
  constructor
  · rintro ⟨hid, ht⟩
    exact ⟨t.stateReg, hid, ht.symm⟩
  · rintro ⟨v, hid, rfl⟩
    exact ⟨hid, rfl⟩

theorem SameButFlag.refl (s : State) : SameButFlag s s := ⟨rfl, rfl⟩

theorem SameButFlag.host_eq (h : SameButFlag s t) : t.host = s.host := by
  obtain ⟨v, -, rfl⟩ := sameButFlag_iff.mp h
  rfl

theorem SameButFlag.setHost (h : SameButFlag s t) (events : List HostEvent) :
    SameButFlag (s.setHost events) (t.setHost events) := by
  obtain ⟨v, hid, rfl⟩ := sameButFlag_iff.mp h
  exact ⟨hid, rfl⟩

theorem SameButFlag.presentNow (h : SameButFlag s t) (n : Time) : SameButFlag (s.presentNow n) (t.presentNow n) := by
  obtain ⟨v, hid, rfl⟩ := sameButFlag_iff.mp h
  exact ⟨hid, rfl⟩

/-! ## The relation on outcomes -/

theorem SameOutcomeButFlag.of_eq {o p : Outcome} (h : o = p) : SameOutcomeButFlag o p := by
  subst h
  cases o with
  | next s => exact SameButFlag.refl s
  | fault f => exact rfl
  | refused r => exact rfl

/-- Outcomes alike but for the flag are two such next states, or one and the same stop. -/
theorem SameOutcomeButFlag.cases {o p : Outcome} (h : SameOutcomeButFlag o p) :
    (∃ s t, o = .next s ∧ p = .next t ∧ SameButFlag s t)
    ∨ (∃ f, o = .fault f ∧ p = .fault f)
    ∨ ∃ r, o = .refused r ∧ p = .refused r := by
  match o, p, h with
  | .next s, .next t, h => exact .inl ⟨s, t, rfl, rfl, h⟩
  | .fault f, .fault _, rfl => exact .inr (.inl ⟨f, rfl, rfl⟩)
  | .refused r, .refused _, rfl => exact .inr (.inr ⟨r, rfl, rfl⟩)

end Sys2Proof.Safety

namespace Sys2Proof.Machine

open Sys2Proof.Safety

variable {s t : State}

/-! ## SAMPLE overwrites STATE -/

theorem storeCell_writeState (c v : Byte) (s : State) : storeCell c (s.writeState v) = storeCell c s := rfl

/-- SAMPLE does not see the flag that an earlier SAMPLE left in STATE (R81). -/
theorem sampleWith_writeState (rom : Memory) (a b : Bool) {v : Byte} (hid : idField s.stateReg = idField v) :
    sampleWith rom a b (s.writeState v) = sampleWith rom a b s := by
  have hrow : rowIndex (s.writeState v).stateReg = rowIndex s.stateReg := congrArg BitVec.toNat hid.symm
  simp only [sampleWith, hrow, storeCell_writeState]

/-! ## Steps and runs -/

theorem step_of_host_nil (h : s.host = []) : step s = .next s := by
  simp only [step, h]

theorem performRequest_of_decode_error {r : Request} {why : DecodeError} (h : decode r.cmd = .error why) (s : State) :
    performRequest r s = .refused (.illegalWord r.cmd why) := by
  simp only [performRequest, h]

theorem exec_sameButFlag (i : Instr) (h : SameButFlag s t) : SameOutcomeButFlag (exec i s) (exec i t) := by
  obtain ⟨v, hid, rfl⟩ := sameButFlag_iff.mp h
  cases i with
  | sample a b => exact .of_eq (sampleWith_writeState transitionRom a b hid).symm
  | setsens n => exact ⟨hid, rfl⟩
  | getsens => exact ⟨hid, rfl⟩
  | init n => exact .of_eq rfl

theorem performRequest_sameButFlag (r : Request) (h : SameButFlag s t) :
    SameOutcomeButFlag (performRequest r s) (performRequest r t) := by
  cases hdecode : decode r.cmd with
  | ok i =>
    rw [performRequest_of_decode_ok hdecode, performRequest_of_decode_ok hdecode]
    exact exec_sameButFlag i (h.presentNow r.now)
  | error why =>
    exact .of_eq ((performRequest_of_decode_error hdecode s).trans (performRequest_of_decode_error hdecode t).symm)

theorem performEvent_sameButFlag (e : HostEvent) (h : SameButFlag s t) :
    SameOutcomeButFlag (performEvent e s) (performEvent e t) := by
  cases e with
  | quiet => exact h
  | request r => exact performRequest_sameButFlag r h
  | overlap r q => exact .of_eq rfl
  | reset presented =>
    obtain ⟨v, -, rfl⟩ := sameButFlag_iff.mp h
    exact .of_eq rfl
  | powerLoss =>
    obtain ⟨v, -, rfl⟩ := sameButFlag_iff.mp h
    exact .of_eq rfl

theorem step_sameButFlag (h : SameButFlag s t) : SameOutcomeButFlag (step s) (step t) := by
  rcases step_cases s with ⟨hhost, hidle⟩ | ⟨e, rest, hhost, hevent⟩
  · rw [hidle, step_of_host_nil (h.host_eq.trans hhost)]
    exact h
  · rw [hevent, step_of_host_cons (h.host_eq.trans hhost)]
    exact performEvent_sameButFlag e (h.setHost rest)

/-- Settles O23, by induction on the length of the run. -/
theorem staleFlagIsInvisible : Obligations.StaleFlagIsInvisible := by
  intro k
  induction k with
  | zero => exact fun s t h => h
  | succ k ih =>
    intro s t h
    rcases (step_sameButFlag h).cases with ⟨s', t', hs, ht, h'⟩ | ⟨f, hs, ht⟩ | ⟨r, hs, ht⟩
    · rw [run_succ_next hs, run_succ_next ht]
      exact ih s' t' h'
    · exact .of_eq (by rw [run_succ_fault hs, run_succ_fault ht])
    · exact .of_eq (by rw [run_succ_refused hs, run_succ_refused ht])

end Sys2Proof.Machine
end

-- ==== Proofs: the response latches ====
section
/-! What each command drives on the response latches (R10, R29). -/

namespace Sys2Proof.Machine

/-- Settles O40, by the effect of each command: SAMPLE and GETSENS respond with a value, SETSENS and INIT with none. -/
theorem responseFollowsTheCommand : Obligations.ResponseFollowsTheCommand := by
  intro i s t h
  rcases exec_next h with ⟨a, b, c, rfl, -, rfl⟩ | ⟨v, rfl, rfl⟩ | ⟨rfl, rfl⟩ | ⟨v, rfl, rfl⟩ <;> simp

end Sys2Proof.Machine
end

-- ==== Proofs: the power loss ====
section
/-! The free values after a power loss (R31). -/

namespace Sys2Proof.Machine

/-- Settles O3: the step takes the event off the host's list and then loses power. -/
theorem powerLossFreesEveryRegister : Obligations.PowerLossFreesEveryRegister := by
  intro s rest hhost
  calc step s
      = performEvent .powerLoss (s.setHost rest) := step_of_host_cons hhost
    _ = .next (s.setHost rest).losePower := rfl

end Sys2Proof.Machine
end

-- ==== Proofs: reading a transition table ====
section
/-! A table of the right shape is read as its list of bytes, at the addresses 0..23 and nowhere else (R41, R48), so the
ROM is the flat image of R42; and what SAMPLE does for each answer of such a read. -/

namespace Sys2Proof.Machine

variable {rom : Memory}

/-! ## Addresses -/

theorem romAddress_eq (id : Nat) (sym : Symbol) : romAddress id sym = id * 4 + sym.toNat := rfl

theorem symbol_toNat (a b : Bool) : (symbol a b).toNat = (if a then 2 else 0) + (if b then 1 else 0) := by
  cases a <;> cases b <;> rfl

/-- A row of the table is a value of the field `id`. -/
theorem exists_idField_of_le_five {id : Nat} (h : id ≤ 5) : ∃ q : BitVec 4, q.toNat = id :=
  ⟨BitVec.ofNat 4 id, Nat.mod_eq_of_lt (by omega)⟩

/-- An admitted table has no row above 5 (R48). -/
theorem Memory.row_le_five_of_read (hrom : rom.admitted = true) {id : Nat} {sym : Symbol} {c : Byte}
    (hread : rom.read (romAddress id sym) = some c) : id ≤ 5 := by
  have hlt := Memory.read_lt hrom hread
  rw [romAddress_eq] at hlt
  omega

theorem Memory.read_eq_none_of_row_gt_five (hrom : rom.admitted = true) {id : Nat} (hid : 5 < id) (sym : Symbol) :
    rom.read (romAddress id sym) = none := by
  cases hread : rom.read (romAddress id sym) with
  | none => rfl
  | some c => exact absurd (Memory.row_le_five_of_read hrom hread) (by omega)

/-! ## The flat image -/

/-- A memory of consecutive addresses is read as the list of its bytes. -/
theorem Memory.read_eq_getElem? {start count : Nat} (hshape : rom.map Prod.fst = List.range' start count)
    (offset : Nat) : rom.read (start + offset) = (rom.map Prod.snd)[offset]? := by
  induction rom generalizing start count offset with
  | nil => rfl
  | cons cell rest ih =>
    cases count with
    | zero => simp at hshape
    | succ count =>
      obtain ⟨haddr, hrest⟩ := List.cons.inj hshape
      cases offset with
      | zero => simp [Memory.read, haddr]
      | succ offset =>
        have hne : cell.1 ≠ start + (offset + 1) := by omega
        have hnext : start + (offset + 1) = start + 1 + offset := by omega
        rw [Memory.read, if_neg hne, hnext]
        exact ih hrest offset

theorem transitionRom_read (addr : Nat) : transitionRom.read addr = (transitionRom.map Prod.snd)[addr]? := by
  have hshape : transitionRom.map Prod.fst = List.range' 0 24 := by decide
  simpa using Memory.read_eq_getElem? hshape addr

/-- R42: the four flagged cells, among the bytes of the table. -/
theorem transitionRom_flaggedCells : ∀ i : Fin (transitionRom.map Prod.snd).length,
    (dirField (transitionRom.map Prod.snd)[i] = 0b01#2 ↔ i.val = 2 * 4 + 0 ∨ i.val = 4 * 4 + 3)
    ∧ (dirField (transitionRom.map Prod.snd)[i] = 0b10#2 ↔ i.val = 1 * 4 + 0 ∨ i.val = 5 * 4 + 3) := by decide

/-- Settles O14: reading the ROM is indexing its bytes, and those are the bytes of R42. -/
theorem romHoldsTheSpecTable : Obligations.RomHoldsTheSpecTable := by
  refine ⟨transitionRom_read, ?_⟩
  intro addr c hread
  rw [transitionRom_read, List.getElem?_eq_some_iff] at hread
  obtain ⟨hlt, rfl⟩ := hread
  exact transitionRom_flaggedCells ⟨addr, hlt⟩

/-! ## SAMPLE, per answer of the table -/

theorem sampleWith_of_not_admitted (hrom : rom.admitted = false) (a b : Bool) (s : State) :
    sampleWith rom a b s = .refused .tableNotAdmitted := by
  simp only [sampleWith, hrom, Bool.false_eq_true, if_false]

theorem sampleWith_of_read_none (hrom : rom.admitted = true) {a b : Bool} {s : State}
    (hread : rom.read (romAddress (rowIndex s.stateReg) (symbol a b)) = none) :
    sampleWith rom a b s = .fault (.romAddressUnused (romAddress (rowIndex s.stateReg) (symbol a b))) := by
  simp only [sampleWith, hrom, hread, if_true]

theorem sampleWith_of_read_some (hrom : rom.admitted = true) {a b : Bool} {s : State} {c : Byte}
    (hread : rom.read (romAddress (rowIndex s.stateReg) (symbol a b)) = some c) :
    sampleWith rom a b s = .next (storeCell c s) := by
  simp only [sampleWith, hrom, hread, if_true]

/-- Settles O17. -/
theorem tableNotAdmittedIsRefused : Obligations.TableNotAdmittedIsRefused :=
  fun _ a b s hrom => sampleWith_of_not_admitted hrom a b s

/-- Settles O20: there is no row for the id, so the read answers nothing. -/
theorem unusedRomAddressFaults : Obligations.UnusedRomAddressFaults := by
  intro a b s hid
  have hread : transitionRom.read (romAddress (rowIndex s.stateReg) (symbol a b)) = none :=
    Memory.read_eq_none_of_row_gt_five transitionRom_admitted hid _
  rw [exec_sample, sampleWith_of_read_none transitionRom_admitted hread, romAddress_eq, symbol_toNat, Nat.add_assoc]
  rfl

/-! ## A SAMPLE that completes no step -/

theorem rawOfByte_eq_zero_of_no_flag {c : Byte} (h : dirField c = 0b00#2) : rawOfByte c = 0 := by
  simp [rawOfByte, h, directionOfBits, rawOf]

theorem storeCell_last_of_no_flag {c : Byte} (h : dirField c = 0b00#2) (s : State) :
    (storeCell c s).last = s.last := by
  simp [storeCell_last, rawOfByte_eq_zero_of_no_flag h]

theorem storeCell_rsp_of_no_flag {c : Byte} (h : dirField c = 0b00#2) (s : State) : (storeCell c s).rsp = 0#8 := by
  rw [storeCell_rsp, rawOfByte_eq_zero_of_no_flag h]
  rfl

end Sys2Proof.Machine
end

-- ==== Proofs: the cells of an admitted table ====
section
/-! What the clauses of R43 say of one cell of an admitted table (log entry 5), named once. The statements about
admitted tables follow from it. -/

namespace Sys2Proof.Machine

variable {rom : Memory} {q : BitVec 4} {sym : Symbol} {c : Byte}

/-! ## The states and symbols -/

theorem isRestId_iff : isRestId q = true ↔ q = 0#4 ∨ q = 3#4 := by
  simp [isRestId, stateId]

theorem isRestSymbol_iff : isRestSymbol sym = true ↔ sym = 0b00#2 ∨ sym = 0b11#2 := by
  simp [isRestSymbol]

theorem isRestSymbol_eq_false_iff : isRestSymbol sym = false ↔ sym = 0b01#2 ∨ sym = 0b10#2 := by
  revert sym
  decide

theorem isRestId_restId (sym : Symbol) : isRestId (restId sym) = true := by
  revert sym
  decide

theorem restId_toNat_le_five (sym : Symbol) : (restId sym).toNat ≤ 5 := by
  revert sym
  decide

theorem homeSymbol_restId (h : isRestSymbol sym = true) : homeSymbol (restId sym) = sym := by
  revert sym
  decide

theorem isRestSymbol_homeSymbol (q : BitVec 4) : isRestSymbol (homeSymbol q) = true := by
  revert q
  decide

theorem isRestSymbol_entrySymbol (q : BitVec 4) : isRestSymbol (entrySymbol q) = false := by
  revert q
  decide

/-- There is one resting state on each side. -/
theorem eq_restId_homeSymbol (h : isRestId q = true) : q = restId (homeSymbol q) := by
  revert q
  decide

/-- A `…BEGIN` state is known by the resting symbol its move began at and by its own intermediate symbol (R23). -/
theorem begin_ext {p : BitVec 4} (hp : p.toNat ≤ 5) (hq : q.toNat ≤ 5) (hpb : isRestId p = false)
    (hqb : isRestId q = false) (hhome : homeSymbol p = homeSymbol q) (hentry : entrySymbol p = entrySymbol q) :
    p = q := by
  revert p q
  decide

/-! ## The clauses, for one cell -/

/-- What R43's clauses 1 to 4 say of the cell `c` in row `q` for the symbol `sym`. -/
structure AdmittedCell (q : BitVec 4) (sym : Symbol) (c : Byte) : Prop where
  /-- Clause 1. -/
  legal : legalByte c = true
  /-- Clause 2: a flag goes from a `…BEGIN` state to a resting state. -/
  flag_arrives : dirField c = 0b00#2 ∨ isRestId q = false ∧ isRestId (idField c) = true
  /-- Clause 3: a resting symbol leads to its own resting state. -/
  rests : isRestSymbol sym = true → idField c = restId sym
  /-- Clause 3: back at the symbol the move began at there is no flag. -/
  home_no_flag : sym = homeSymbol q → dirField c = 0b00#2
  /-- Clause 3: an intermediate symbol stays on the side the move began at. -/
  keeps_side : isRestSymbol sym = false → homeSymbol (idField c) = homeSymbol q
  /-- Clause 4: a `…BEGIN` state is entered from rest or from itself, on its own symbol. -/
  entered : isRestId (idField c) = true
    ∨ (isRestId q = true ∨ idField c = q) ∧ sym = entrySymbol (idField c)
  /-- Clause 4: a flag stands on a resting symbol and has its row's direction. -/
  flag_direction : dirField c = 0b00#2
    ∨ isRestSymbol sym = true ∧ directionOfBits (dirField c) = beginDirection q

/-- What a property of all cells gives for a cell that was read. -/
theorem Memory.allCells_of_read {p : BitVec 4 → Symbol → Byte → Bool} (h : rom.allCells p = true)
    (hq : q.toNat ≤ 5) (hread : rom.read (romAddress q.toNat sym) = some c) : p q sym c = true := by
  obtain ⟨d, hd, hp⟩ := Memory.allCells_read h (Nat.lt_succ_of_le hq) sym
  cases hread.symm.trans hd
  simpa using hp

/-- Every row of an admitted table has a cell for every symbol, and that cell meets the clauses. -/
theorem Memory.exists_admittedCell (hrom : rom.admitted = true) (hq : q.toNat ≤ 5) (sym : Symbol) :
    ∃ c, rom.read (romAddress q.toNat sym) = some c ∧ AdmittedCell q sym c := by
  obtain ⟨-, hclosed, hflags, hreversal, hreadings, -, -⟩ := Memory.admitted_clauses hrom
  obtain ⟨hsides, -⟩ := Bool.and_eq_true_iff.mp hreversal
  obtain ⟨c, hread, hlegal⟩ := Memory.allCells_read hclosed (Nat.lt_succ_of_le hq) sym
  have harrives := Memory.allCells_of_read hflags hq hread
  have hside := Memory.allCells_of_read hsides hq hread
  have htwo := Memory.allCells_of_read hreadings hq hread
  simp only [Bool.and_eq_true, Bool.or_eq_true, beq_iff_eq, Bool.not_eq_true'] at harrives htwo
  obtain ⟨hentered, hdirection⟩ := htwo
  refine ⟨c, hread, hlegal, harrives, ?_, ?_, ?_, hentered, hdirection⟩
  · intro hrest
    simp only [hrest, if_true, Bool.and_eq_true, beq_iff_eq] at hside
    exact hside.1
  · rintro rfl
    simp only [isRestSymbol_homeSymbol, if_true, bne_self_eq_false, Bool.false_or, Bool.and_eq_true,
      beq_iff_eq] at hside
    exact hside.2
  · intro hmid
    simpa [hmid] using hside

theorem Memory.admittedCell_of_read (hrom : rom.admitted = true)
    (hread : rom.read (romAddress q.toNat sym) = some c) : AdmittedCell q sym c := by
  obtain ⟨d, hd, hcell⟩ := Memory.exists_admittedCell hrom (Memory.row_le_five_of_read hrom hread) sym
  cases hread.symm.trans hd
  exact hcell

theorem AdmittedCell.id_le_five (h : AdmittedCell q sym c) : (idField c).toNat ≤ 5 :=
  (legalByte_iff.mp h.legal).1

theorem AdmittedCell.no_flag_of_rest (h : AdmittedCell q sym c) (hq : isRestId q = true) : dirField c = 0b00#2 :=
  h.flag_arrives.resolve_right fun ⟨hbegin, _⟩ => by simp [hq] at hbegin

theorem AdmittedCell.no_flag_of_intermediate (h : AdmittedCell q sym c) (hsym : isRestSymbol sym = false) :
    dirField c = 0b00#2 :=
  h.flag_direction.resolve_right fun ⟨hrest, _⟩ => by simp [hsym] at hrest

theorem AdmittedCell.raw_eq (h : AdmittedCell q sym c) :
    rawOfByte c = 0 ∨ rawOfByte c = rawOf (beginDirection q) :=
  h.flag_direction.imp rawOfByte_eq_zero_of_no_flag fun ⟨_, hdirection⟩ => congrArg rawOf hdirection

theorem AdmittedCell.entered_of_begin (h : AdmittedCell q sym c) (hbegin : isRestId (idField c) = false) :
    (isRestId q = true ∨ idField c = q) ∧ sym = entrySymbol (idField c) :=
  h.entered.resolve_left (by simp [hbegin])

/-! ## Closure, two readings, and no two steps in a row -/

/-- Settles O16. -/
theorem admittedTablesAreClosed : Obligations.AdmittedTablesAreClosed := by
  refine ⟨transitionRom_admitted, ?_⟩
  intro rom hrom id sym hid
  obtain ⟨q, rfl⟩ := exists_idField_of_le_five hid
  obtain ⟨c, hread, hcell⟩ := Memory.exists_admittedCell hrom hid sym
  obtain ⟨hle, hboth, htop⟩ := legalByte_iff.mp hcell.legal
  refine ⟨c, hread, hle, hboth, htop, fun hflag => ?_⟩
  obtain ⟨hbegin, harrival⟩ := hcell.flag_arrives.resolve_left hflag
  refine ⟨isRestId_iff.mp harrival, ?_⟩
  have hq : ¬(q = 0#4 ∨ q = 3#4) := by simp [← isRestId_iff, hbegin]
  bv_omega

/-- The row of a cell that leads to a `…BEGIN` state, in the numbers of R23. -/
theorem AdmittedCell.row_of_begin (h : AdmittedCell q sym c) (hbegin : isRestId (idField c) = false) :
    q.toNat = 0 ∨ q.toNat = 3 ∨ q.toNat = (idField c).toNat := by
  rcases (h.entered_of_begin hbegin).1 with hrest | hself
  · rcases isRestId_iff.mp hrest with rfl | rfl
    · exact .inl rfl
    · exact .inr (.inl rfl)
  · exact .inr (.inr (congrArg BitVec.toNat hself.symm))

theorem beginDirection_eq_cw_iff : beginDirection q = .cw ↔ q = 2#4 ∨ q = 4#4 := by
  revert q
  decide

theorem beginDirection_eq_ccw_iff : beginDirection q = .ccw ↔ q = 1#4 ∨ q = 5#4 := by
  revert q
  decide

/-- Settles O43: a `…BEGIN` state is entered on its own symbol, and a flag has its row's direction. -/
theorem admittedTablesNeedTwoReadings : Obligations.AdmittedTablesNeedTwoReadings := by
  intro rom id sym c hrom hid hread
  obtain ⟨q, rfl⟩ := exists_idField_of_le_five hid
  have hcell : AdmittedCell q sym c := Memory.admittedCell_of_read hrom hread
  have hentered {m : Symbol} (hbegin : isRestId (idField c) = false) (hm : entrySymbol (idField c) = m) :
      sym = m ∧ (q.toNat = 0 ∨ q.toNat = 3 ∨ q.toNat = (idField c).toNat) :=
    ⟨(hcell.entered_of_begin hbegin).2.trans hm, hcell.row_of_begin hbegin⟩
  have hflagged (hflag : dirField c ≠ 0b00#2) :
      (sym = 0b00#2 ∨ sym = 0b11#2) ∧ directionOfBits (dirField c) = beginDirection q :=
    (hcell.flag_direction.resolve_left hflag).imp_left isRestSymbol_iff.mp
  refine ⟨?_, ?_, fun hcw => ?_, fun hccw => ?_⟩
  · rintro (h | h) <;> exact hentered (by rw [h]; rfl) (by rw [h]; rfl)
  · rintro (h | h) <;> exact hentered (by rw [h]; rfl) (by rw [h]; rfl)
  · obtain ⟨hsym, hrow⟩ := hflagged (by simp [hcw])
    rw [hcw] at hrow
    exact ⟨hsym, (beginDirection_eq_cw_iff.mp hrow.symm).imp (congrArg BitVec.toNat) (congrArg BitVec.toNat)⟩
  · obtain ⟨hsym, hrow⟩ := hflagged (by simp [hccw])
    rw [hccw] at hrow
    exact ⟨hsym, (beginDirection_eq_ccw_iff.mp hrow.symm).imp (congrArg BitVec.toNat) (congrArg BitVec.toNat)⟩

/-- Settles O24: a flag leaves a resting state, and no cell of a resting state's row has a flag. -/
theorem noTwoStepsInARow : Obligations.NoTwoStepsInARow := by
  intro rom a b c d s t u n hfirst hflag hsecond
  obtain ⟨hrom, cell, hread, rfl⟩ := sampleWith_next hfirst
  obtain ⟨-, cell', hread', rfl⟩ := sampleWith_next hsecond
  rw [storeCell_stateReg] at hflag
  have hrest : isRestId (idField cell) = true :=
    ((Memory.admittedCell_of_read hrom hread).flag_arrives.resolve_left hflag).2
  have hnone : dirField cell' = 0b00#2 := by
    rw [storeCell_stateReg] at hread'
    exact (Memory.admittedCell_of_read hrom hread').no_flag_of_rest hrest
  exact ⟨by rwa [storeCell_stateReg], storeCell_rspValid .., storeCell_rsp_of_no_flag hnone _,
    storeCell_last_of_no_flag hnone _⟩

end Sys2Proof.Machine
end

-- ==== Proofs: symbols that complete no step ====
section
/-! A set of decoder states that a set of symbols neither leaves nor completes a step in. Every reading of such symbols,
along a list or in a run of the machine, gives 0. Two of these sets carry the rejection of reversal and of contact
bounce (R43 clauses 3 and 4): one side of the table, and a resting state with one `…BEGIN` state. -/

namespace Sys2Proof.Machine

variable {rom : Memory}

/-- In the states of `P`, the symbols of `S` have a cell without a flag that leads to a state of `P`. -/
def Memory.SilentOn (rom : Memory) (P : BitVec 4 → Prop) (S : Symbol → Prop) : Prop :=
  ∀ q, P q → ∀ sym, S sym →
    ∃ c, rom.read (romAddress q.toNat sym) = some c ∧ P (idField c) ∧ dirField c = 0b00#2

/-! ## Along a list of symbols -/

/-- A silent list of symbols gives 0 on each and stays in the silent states, whatever comes after it. -/
theorem Memory.SilentOn.along {P : BitVec 4 → Prop} {S : Symbol → Prop} (h : rom.SilentOn P S) {syms : List Symbol}
    (hsyms : ∀ m ∈ syms, S m) {q : BitVec 4} (hq : P q) :
    ∃ q', P q' ∧ ∀ later,
      rom.rawsAlong q.toNat (syms ++ later)
        = (rom.rawsAlong q'.toNat later).map (List.replicate syms.length 0 ++ ·)
      ∧ rom.idAlong q.toNat (syms ++ later) = rom.idAlong q'.toNat later := by
  induction syms generalizing q with
  | nil => exact ⟨q, hq, fun later => ⟨by simp, rfl⟩⟩
  | cons m syms ih =>
    obtain ⟨hm, hrest⟩ := List.forall_mem_cons.mp hsyms
    obtain ⟨c, hread, hc, hflag⟩ := h q hq m hm
    obtain ⟨q', hq', halong⟩ := ih hrest hc
    refine ⟨q', hq', fun later => ?_⟩
    obtain ⟨hraws, hid⟩ := halong later
    rw [List.cons_append, Memory.rawsAlong_cons _ hread, Memory.idAlong_cons _ hread,
      rawOfByte_eq_zero_of_no_flag hflag, rowIndex, hraws, hid]
    exact ⟨by simp [Function.comp_def, List.replicate_succ], rfl⟩

/-! ## In a run of the machine -/

/-- The word of a SAMPLE, from its symbol (R61, R69). -/
theorem decode_symbol_word (sym : Symbol) :
    ∃ a b, decode (sym.setWidth 16) = .ok (.sample a b) ∧ symbol a b = sym := by
  refine ⟨sym.getLsbD 1, sym.getLsbD 0, ?_⟩
  revert sym
  decide

theorem step_of_silent {P : BitVec 4 → Prop} {S : Symbol → Prop} (h : transitionRom.SilentOn P S) {s : State}
    (hs : P (idField s.stateReg)) {r : Request} {rest : List HostEvent} (hhost : s.host = .request r :: rest)
    {sym : Symbol} (hsym : S sym) (hword : r.cmd = sym.setWidth 16) :
    ∃ t, step s = .next t ∧ P (idField t.stateReg) ∧ t.last = s.last ∧ t.host = rest
      ∧ t.rspValid = true ∧ t.rsp = 0#8 := by
  obtain ⟨a, b, hdecode, rfl⟩ := decode_symbol_word sym
  obtain ⟨c, hread, hc, hflag⟩ := h _ hs _ hsym
  have hstep : step s = .next (storeCell c { s with host := rest, now := r.now }) := by
    rw [stepRunsTheDecodedCommand s r rest _ hhost (hword ▸ hdecode), exec_sample]
    exact sampleWith_of_read_some transitionRom_admitted hread
  exact ⟨_, hstep, by rwa [storeCell_stateReg], storeCell_last_of_no_flag hflag _, storeCell_host ..,
    storeCell_rspValid .., storeCell_rsp_of_no_flag hflag _⟩

/-- A run over silent symbols answers a next state, keeps LAST and stays in the silent states. Its last response is 0,
or the one before the run where that was 0 already. -/
theorem run_of_silent {P : BitVec 4 → Prop} {S : Symbol → Prop} (h : transitionRom.SilentOn P S) {rs : List Request}
    (hwords : ∀ r ∈ rs, ∃ sym, S sym ∧ r.cmd = sym.setWidth 16) {s : State} (hs : P (idField s.stateReg))
    (hhost : s.host = rs.map .request) :
    ∃ t, Host.Core.run Sys2Proof.core rs.length s = .next t ∧ P (idField t.stateReg) ∧ t.last = s.last
      ∧ (rs ≠ [] ∨ s.rspValid = true ∧ s.rsp = 0#8 → t.rspValid = true ∧ t.rsp = 0#8) := by
  induction rs generalizing s with
  | nil => exact ⟨s, rfl, hs, rfl, fun hrsp => hrsp.resolve_left fun hne => hne rfl⟩
  | cons r rs ih =>
    obtain ⟨⟨sym, hsym, hword⟩, hrest⟩ := List.forall_mem_cons.mp hwords
    obtain ⟨t, hstep, ht, hlast, hthost, hrsp⟩ := step_of_silent h hs hhost hsym hword
    obtain ⟨u, hrun, hu, hulast, hursp⟩ := ih hrest ht hthost
    exact ⟨u, (run_succ_next hstep).trans hrun, hu, hulast.trans hlast, fun _ => hursp (.inr hrsp)⟩

/-! ## The silent sets of an admitted table -/

/-- R43 clause 3: on the side of a resting symbol, that symbol and both intermediate symbols are silent. -/
theorem Memory.silentOn_side (hrom : rom.admitted = true) (r : Symbol) :
    rom.SilentOn (fun q => q.toNat ≤ 5 ∧ homeSymbol q = r) (fun sym => sym = r ∨ isRestSymbol sym = false) := by
  rintro q ⟨hq, rfl⟩ sym hsym
  obtain ⟨c, hread, hcell⟩ := Memory.exists_admittedCell hrom hq sym
  rcases hsym with rfl | hmid
  · have hrest := isRestSymbol_homeSymbol q
    refine ⟨c, hread, ⟨hcell.id_le_five, ?_⟩, hcell.home_no_flag rfl⟩
    rw [hcell.rests hrest, homeSymbol_restId hrest]
  · exact ⟨c, hread, ⟨hcell.id_le_five, hcell.keeps_side hmid⟩, hcell.no_flag_of_intermediate hmid⟩

/-- R43 clauses 3 and 4: between a resting state and the `…BEGIN` state `b` next to it, the resting symbol and the
symbol of `b` are silent. -/
theorem Memory.silentOn_bounce (hrom : rom.admitted = true) {b : BitVec 4} (hb : b.toNat ≤ 5)
    (hbegin : isRestId b = false) :
    rom.SilentOn (fun q => q = restId (homeSymbol b) ∨ q = b)
      (fun sym => sym = homeSymbol b ∨ sym = entrySymbol b) := by
  intro q hq sym hsym
  have hside : q.toNat ≤ 5 ∧ homeSymbol q = homeSymbol b := by
    rcases hq with rfl | rfl
    · exact ⟨restId_toNat_le_five _, homeSymbol_restId (isRestSymbol_homeSymbol b)⟩
    · exact ⟨hb, rfl⟩
  obtain ⟨c, hread, ⟨hle, hhome⟩, hflag⟩ := Memory.silentOn_side hrom (homeSymbol b) q hside sym
    (hsym.imp_right fun h => by rw [h, isRestSymbol_entrySymbol])
  have hcell : AdmittedCell q sym c := Memory.admittedCell_of_read hrom hread
  refine ⟨c, hread, ?_, hflag⟩
  cases hnext : isRestId (idField c) with
  | true => exact .inl (hhome ▸ eq_restId_homeSymbol hnext)
  | false =>
    have hentry : sym = entrySymbol (idField c) := (hcell.entered_of_begin hnext).2
    rcases hsym with rfl | rfl
    · have hmid := isRestSymbol_entrySymbol (idField c)
      simp [← hentry, isRestSymbol_homeSymbol] at hmid
    · exact .inr (begin_ext hle hb hnext hbegin hhome hentry.symm)

/-! ## Bounce, reversal and clean detents -/

/-- Settles O26: each of the four rows names the symbols and the two states of one `…BEGIN` state. -/
theorem bounceNeverSteps : Obligations.BounceNeverSteps := by
  intro p hp
  have hrow : p.2.1.toNat ≤ 5 ∧ isRestId p.2.1 = false ∧ p.1 = restId (homeSymbol p.2.1)
      ∧ p.2.2.1 = (homeSymbol p.2.1).setWidth 16 ∧ p.2.2.2 = (entrySymbol p.2.1).setWidth 16 := by
    simp only [List.mem_cons, List.not_mem_nil, or_false] at hp
    rcases hp with rfl | rfl | rfl | rfl <;> exact ⟨by decide, rfl, rfl, rfl, rfl⟩
  obtain ⟨hle, hbegin, hrest, hhome, hentry⟩ := hrow
  intro rs s hwords hs hhost
  rw [hrest] at hs ⊢
  obtain ⟨t, hrun, ht, hlast, hrsp⟩ := run_of_silent (Memory.silentOn_bounce transitionRom_admitted hle hbegin)
    (fun r hr => (hwords r hr).elim (fun h => ⟨_, .inl rfl, h.trans hhome⟩) fun h => ⟨_, .inr rfl, h.trans hentry⟩)
    hs hhost
  exact ⟨t, hrun, ht, hlast, fun hne => hrsp (.inl hne)⟩

/-- After any history, a resting symbol leads to its own resting state. -/
theorem Memory.exists_read_rest (hrom : rom.admitted = true) {id : Nat} (hid : id ≤ 5) {r : Symbol}
    (hr : isRestSymbol r = true) : ∃ c, rom.read (romAddress id r) = some c ∧ idField c = restId r := by
  obtain ⟨q, rfl⟩ := exists_idField_of_le_five hid
  obtain ⟨c, hread, hcell⟩ := Memory.exists_admittedCell hrom hid r
  exact ⟨c, hread, hcell.rests hr⟩

/-- Settles O42: once `r` has been read the decoder is on the side of `r`, where all the symbols are silent. -/
theorem admittedTablesRejectReversal : Obligations.AdmittedTablesRejectReversal := by
  intro rom id r ms hrom hid hr hms
  have hrest : isRestSymbol r = true := isRestSymbol_iff.mpr hr
  obtain ⟨c, hread, hc⟩ := Memory.exists_read_rest hrom hid hrest
  have hside : (idField c).toNat ≤ 5 ∧ homeSymbol (idField c) = r :=
    hc ▸ ⟨restId_toNat_le_five r, homeSymbol_restId hrest⟩
  obtain ⟨q, ⟨hq, hhome⟩, halong⟩ := (Memory.silentOn_side hrom r).along
    (fun m hm => .inr (isRestSymbol_eq_false_iff.mpr (hms m hm))) hside
  obtain ⟨hraws, hend⟩ := halong [r]
  obtain ⟨d, hlast, hd⟩ := Memory.exists_read_rest hrom hq hrest
  have hflag : dirField d = 0b00#2 := (Memory.admittedCell_of_read hrom hlast).home_no_flag hhome.symm
  rw [Memory.rawsAlong_cons _ hlast, rawOfByte_eq_zero_of_no_flag hflag] at hraws
  rw [Memory.idAlong_cons _ hlast, rowIndex, hd] at hend
  rw [Memory.rawsAlong_cons _ hread, Memory.idAlong_cons _ hread, rowIndex, hraws, hend]
  refine ⟨⟨rawOfByte c, ?_⟩, ?_⟩
  · simp [Memory.rawsAlong, List.replicate_succ']
  · rcases hr with rfl | rfl <;> rfl

/-- Each clean detent is the move of one `…BEGIN` state: it begins at that state's resting symbol, reads its
intermediate symbol, and has its direction's sign (R23, R87). -/
theorem exists_begin_of_cleanDetent : ∀ p ∈ cleanDetents, ∃ b : BitVec 4, b.toNat ≤ 5 ∧ isRestId b = false
    ∧ p.1 = homeSymbol b ∧ p.2.1 = entrySymbol b ∧ p.2.2.2 = rawOf (beginDirection b) := by
  decide

/-- R43 clause 5, as the check has it. -/
theorem Memory.rawsAlong_cleanDetent (hrom : rom.admitted = true) {p : Symbol × Symbol × Symbol × Int}
    (hp : p ∈ cleanDetents) {id : Nat} (hid : id ≤ 5) :
    ∃ first : Int, rom.rawsAlong id [p.1, p.2.1, p.2.2.1] = some [first, 0, p.2.2.2] := by
  obtain ⟨-, -, -, -, -, hgray, -⟩ := Memory.admitted_clauses hrom
  simp only [Memory.followsGrayPaths, Bool.and_eq_true, List.all_eq_true, List.mem_range, beq_iff_eq] at hgray
  obtain ⟨⟨hdetents, -⟩, -⟩ := hgray
  obtain ⟨raws, hraws, htail⟩ := Option.map_eq_some_iff.mp (hdetents id (Nat.lt_succ_of_le hid) p hp)
  cases raws with
  | nil => simp at htail
  | cons first later => exact ⟨first, by rw [hraws, ← htail]; rfl⟩

/-- With the intermediate symbol of `b` read any number of times more, the decoder stays between the resting state and
`b`, so the last symbol finds the row of one of these two. -/
theorem Memory.rawsAlong_repeated (hrom : rom.admitted = true) {b : BitVec 4} (hb : b.toNat ≤ 5)
    (hbegin : isRestId b = false) {id : Nat} (hid : id ≤ 5) (count : Nat) (sym : Symbol) :
    ∃ first last : Int, (last = 0 ∨ last = rawOf (beginDirection b))
      ∧ rom.rawsAlong id (homeSymbol b :: (List.replicate count (entrySymbol b) ++ [sym]))
          = some (first :: (List.replicate count 0 ++ [last])) := by
  obtain ⟨c, hread, hc⟩ := Memory.exists_read_rest hrom hid (isRestSymbol_homeSymbol b)
  obtain ⟨q, hq, halong⟩ := (Memory.silentOn_bounce hrom hb hbegin).along
    (fun m hm => .inr (List.eq_of_mem_replicate hm)) (.inl hc)
  have hle : q.toNat ≤ 5 := by
    rcases hq with rfl | rfl
    · exact restId_toNat_le_five _
    · exact hb
  obtain ⟨d, hlast, hcell⟩ := Memory.exists_admittedCell hrom hle sym
  refine ⟨rawOfByte c, rawOfByte d, ?_, ?_⟩
  · rcases hq with rfl | rfl
    · exact .inl (rawOfByte_eq_zero_of_no_flag (hcell.no_flag_of_rest (isRestId_restId _)))
    · exact hcell.raw_eq
  · rw [Memory.rawsAlong_cons _ hread, rowIndex, (halong [sym]).1, Memory.rawsAlong_cons _ hlast]
    simp [Memory.rawsAlong]

/-- Settles O44. -/
theorem admittedTablesFollowCleanDetents : Obligations.AdmittedTablesFollowCleanDetents := by
  intro p hp rom id hrom hid
  refine ⟨Memory.rawsAlong_cleanDetent hrom hp hid, fun n => ?_⟩
  obtain ⟨b, hb, hbegin, hhome, hentry, hsign⟩ := exists_begin_of_cleanDetent p hp
  rw [hhome, hentry, hsign]
  exact Memory.rawsAlong_repeated hrom hb hbegin hid (n + 1) _

end Sys2Proof.Machine
end

-- ==== Proofs: the fields of a command word ====
section
/-! A word of a format is its fields joined (R61), and the opcode with the reserved bits decides what the decoder answers
(R63 to R67). So a word decodes to a command exactly when it is that command's word. -/

namespace Sys2Proof

variable {w : Command} {i : Instr}

/-! ## Joined bit fields -/

theorem extractLsb'_extractLsb' {width start len start' len' : Nat} (x : BitVec width) (h : start' + len' ≤ len) :
    (x.extractLsb' start len).extractLsb' start' len' = x.extractLsb' (start + start') len' := by
  ext k hk
  simp [show start' + k < len by omega, Nat.add_assoc]

theorem extractLsb'_one {width : Nat} (x : BitVec width) (k : Nat) :
    x.extractLsb' k 1 = BitVec.ofBool (x.getLsbD k) := by
  rw [BitVec.getLsbD_eq_extractLsb']
  generalize x.extractLsb' k 1 = bit
  revert bit
  decide

theorem eq_append_iff {m n : Nat} {x : BitVec (m + n)} {hi : BitVec m} {lo : BitVec n} :
    x = hi ++ lo ↔ x.extractLsb' n m = hi ∧ x.extractLsb' 0 n = lo := by
  constructor
  · rintro rfl
    exact ⟨BitVec.extractLsb'_append_eq_left, BitVec.extractLsb'_append_eq_right⟩
  · rintro ⟨rfl, rfl⟩
    exact BitVec.extractLsb'_append_extractLsb'.symm

theorem eq_append_append_iff {l m n : Nat} {x : BitVec (l + m + n)} {hi : BitVec l} {mid : BitVec m} {lo : BitVec n} :
    x = hi ++ mid ++ lo ↔ x.extractLsb' (n + m) l = hi ∧ x.extractLsb' n m = mid ∧ x.extractLsb' 0 n = lo := by
  rw [eq_append_iff, eq_append_iff, extractLsb'_extractLsb' x (by omega), extractLsb'_extractLsb' x (by omega),
    Nat.add_zero, and_assoc]

theorem eq_append_append_append_iff {k l m n : Nat} {x : BitVec (k + l + m + n)} {hi : BitVec k} {midHi : BitVec l}
    {midLo : BitVec m} {lo : BitVec n} :
    x = hi ++ midHi ++ midLo ++ lo
      ↔ x.extractLsb' (n + m + l) k = hi ∧ x.extractLsb' (n + m) l = midHi
        ∧ x.extractLsb' n m = midLo ∧ x.extractLsb' 0 n = lo := by
  rw [eq_append_append_iff, eq_append_iff, extractLsb'_extractLsb' x (by omega), extractLsb'_extractLsb' x (by omega),
    Nat.add_zero, and_assoc]

/-! ## The three formats of R61 -/

theorem eq_formatS_iff {op : BitVec 2} {a b : Bool} :
    w = op ++ 0#12 ++ BitVec.ofBool a ++ BitVec.ofBool b
      ↔ opField w = op ∧ reservedS w = 0 ∧ pin1Field w = a ∧ pin2Field w = b := by
  have hfields : w = op ++ 0#12 ++ BitVec.ofBool a ++ BitVec.ofBool b
      ↔ opField w = op ∧ reservedS w = 0 ∧ w.extractLsb' 1 1 = BitVec.ofBool a ∧ w.extractLsb' 0 1 = BitVec.ofBool b :=
    eq_append_append_append_iff (k := 2) (l := 12) (m := 1) (n := 1)
  rw [hfields, extractLsb'_one, extractLsb'_one, BitVec.ofBool_eq_iff_eq, BitVec.ofBool_eq_iff_eq, pin1Field, pin2Field]

theorem eq_formatI8_iff {op : BitVec 2} {v : Byte} :
    w = op ++ 0#6 ++ v ↔ opField w = op ∧ reservedI8 w = 0 ∧ sensField w = v :=
  eq_append_append_iff (l := 2) (m := 6) (n := 8)

theorem eq_formatN_iff {op : BitVec 2} : w = op ++ 0#14 ↔ opField w = op ∧ reservedN w = 0 :=
  eq_append_iff (m := 2) (n := 14)

/-! ## The decoder, opcode by opcode -/

theorem opField_cases (w : Command) :
    opField w = 0b00#2 ∨ opField w = 0b01#2 ∨ opField w = 0b10#2 ∨ opField w = 0b11#2 := by
  generalize opField w = op
  revert op
  decide

theorem decode_of_op_sample (h : opField w = 0b00#2) :
    decode w = if reservedS w = 0 then .ok (.sample (pin1Field w) (pin2Field w)) else .error .reservedBitsS := by
  simp [decode, h]

theorem decode_of_op_setsens (h : opField w = 0b01#2) :
    decode w = if reservedI8 w = 0 then .ok (.setsens (sensField w)) else .error .reservedBitsI8 := by
  simp [decode, h]

theorem decode_of_op_getsens (h : opField w = 0b10#2) :
    decode w = if reservedN w = 0 then .ok .getsens else .error .reservedBitsN := by
  simp [decode, h]

theorem decode_of_op_init (h : opField w = 0b11#2) :
    decode w = if reservedI8 w = 0 then .ok (.init (sensField w)) else .error .reservedBitsI8 := by
  simp [decode, h]

/-! ## Decoding against encoding -/

theorem decode_encode (i : Instr) : decode (encode i) = .ok i := by
  cases i with
  | sample a b =>
    obtain ⟨hop, hreserved, ha, hb⟩ := eq_formatS_iff.mp (rfl : encode (.sample a b) = _)
    rw [decode_of_op_sample hop, if_pos hreserved, ha, hb]
  | setsens v =>
    obtain ⟨hop, hreserved, hv⟩ := eq_formatI8_iff.mp (rfl : encode (.setsens v) = _)
    rw [decode_of_op_setsens hop, if_pos hreserved, hv]
  | getsens =>
    obtain ⟨hop, hreserved⟩ := eq_formatN_iff.mp (rfl : encode .getsens = _)
    rw [decode_of_op_getsens hop, if_pos hreserved]
  | init v =>
    obtain ⟨hop, hreserved, hv⟩ := eq_formatI8_iff.mp (rfl : encode (.init v) = _)
    rw [decode_of_op_init hop, if_pos hreserved, hv]

theorem ite_ok_eq_ok_iff {p : Prop} [Decidable p] {why : DecodeError} {i j : Instr} :
    (if p then .ok i else .error why : Except DecodeError Instr) = .ok j ↔ p ∧ i = j := by
  split
  next hp => simp [hp]
  next hp => simp [hp]

/-- A legal word has no bit but its opcode and its command's operands, so nothing is lost in decoding it. -/
theorem eq_encode_of_decode_ok (h : decode w = .ok i) : w = encode i := by
  rcases opField_cases w with hop | hop | hop | hop
  · obtain ⟨hreserved, rfl⟩ : reservedS w = 0 ∧ .sample (pin1Field w) (pin2Field w) = i :=
      ite_ok_eq_ok_iff.mp (decode_of_op_sample hop ▸ h)
    exact eq_formatS_iff.mpr ⟨hop, hreserved, rfl, rfl⟩
  · obtain ⟨hreserved, rfl⟩ : reservedI8 w = 0 ∧ .setsens (sensField w) = i :=
      ite_ok_eq_ok_iff.mp (decode_of_op_setsens hop ▸ h)
    exact eq_formatI8_iff.mpr ⟨hop, hreserved, rfl⟩
  · obtain ⟨hreserved, rfl⟩ : reservedN w = 0 ∧ .getsens = i :=
      ite_ok_eq_ok_iff.mp (decode_of_op_getsens hop ▸ h)
    exact eq_formatN_iff.mpr ⟨hop, hreserved⟩
  · obtain ⟨hreserved, rfl⟩ : reservedI8 w = 0 ∧ .init (sensField w) = i :=
      ite_ok_eq_ok_iff.mp (decode_of_op_init hop ▸ h)
    exact eq_formatI8_iff.mpr ⟨hop, hreserved, rfl⟩

/-- Settles O7. -/
theorem decodeReadsExactlyTheEncoding : Obligations.DecodeReadsExactlyTheEncoding := by
  intro i w
  constructor
  · exact eq_encode_of_decode_ok
  · rintro rfl
    exact decode_encode i

/-- Settles O10: each legal word is its command's word, and each illegal one has a reserved bit set. -/
theorem listedWordsDecodeAsTheSpecSays : Obligations.ListedWordsDecodeAsTheSpecSays :=
  ⟨decode_encode (.sample false false), decode_encode (.sample false true), decode_encode (.sample true false),
    decode_encode (.sample true true), decode_encode (.setsens 100), decode_encode .getsens, decode_encode (.init 0),
    decode_encode (.init 255), by decide⟩

end Sys2Proof
end

-- ==== Proofs: the opcode table ====
section
/-! A word under a row's mask has that row's opcode and reserved bits, so the rows hold the legal words (R64), there are
as many of those as commands, and every other word is refused for its reserved bits (R66). -/

namespace Sys2Proof

open Sys2Proof.Machine Sys2Proof.Safety

variable {w : Command} {i : Instr}

/-! ## Masks -/

/-- Under a mask that covers a field, the field stands as it is. -/
theorem extractLsb'_eq_of_masked {width : Nat} {x mask bits : BitVec width} (h : x &&& mask = bits) {start len : Nat}
    (hmask : mask.extractLsb' start len = BitVec.allOnes len) :
    x.extractLsb' start len = bits.extractLsb' start len := by
  rw [← h, BitVec.extractLsb'_and, hmask, BitVec.and_allOnes]

theorem decode_of_sampleRow (h : w &&& 0xFFFC#16 = 0x0000#16) :
    decode w = .ok (.sample (pin1Field w) (pin2Field w)) := by
  have hop : opField w = 0b00#2 := extractLsb'_eq_of_masked h rfl
  have hreserved : reservedS w = 0 := extractLsb'_eq_of_masked h rfl
  rw [decode_of_op_sample hop, if_pos hreserved]

theorem decode_of_setsensRow (h : w &&& 0xFF00#16 = 0x4000#16) : decode w = .ok (.setsens (sensField w)) := by
  have hop : opField w = 0b01#2 := extractLsb'_eq_of_masked h rfl
  have hreserved : reservedI8 w = 0 := extractLsb'_eq_of_masked h rfl
  rw [decode_of_op_setsens hop, if_pos hreserved]

theorem decode_of_getsensRow (h : w &&& 0xFFFF#16 = 0x8000#16) : decode w = .ok .getsens := by
  have hop : opField w = 0b10#2 := extractLsb'_eq_of_masked h rfl
  have hreserved : reservedN w = 0 := extractLsb'_eq_of_masked h rfl
  rw [decode_of_op_getsens hop, if_pos hreserved]

theorem decode_of_initRow (h : w &&& 0xFF00#16 = 0xC000#16) : decode w = .ok (.init (sensField w)) := by
  have hop : opField w = 0b11#2 := extractLsb'_eq_of_masked h rfl
  have hreserved : reservedI8 w = 0 := extractLsb'_eq_of_masked h rfl
  rw [decode_of_op_init hop, if_pos hreserved]

/-! ## Legal words -/

theorem encodesItsRow (i : Instr) : Laws.EncodesItsRow.Statement i := by
  cases i with
  | sample a b => exact Laws.EncodesItsRow.sample a b
  | setsens v => exact Laws.EncodesItsRow.setsens v
  | getsens => exact Laws.EncodesItsRow.getsens
  | init v => exact Laws.EncodesItsRow.init v

/-- A word that decodes is its command's word, so it stands in its command's row. -/
theorem matches_row_of_decode_ok (h : decode w = .ok i) : w &&& (opcodeRow i).mask = (opcodeRow i).bits := by
  rw [eq_encode_of_decode_ok h]
  exact (encodesItsRow i).1

/-- Settles O8. -/
theorem decodeFollowsTheOpcodeTable : Obligations.DecodeFollowsTheOpcodeTable := by
  intro w
  refine ⟨decode_of_sampleRow, decode_of_setsensRow, decode_of_getsensRow, decode_of_initRow, ?_⟩
  intro hsample hsetsens hgetsens hinit
  cases hdecode : decode w with
  | error why => exact ⟨why, rfl⟩
  | ok i =>
    have hrow := matches_row_of_decode_ok hdecode
    cases i with
    | sample a b => exact absurd hrow hsample
    | setsens v => exact absurd hrow hsetsens
    | getsens => exact absurd hrow hgetsens
    | init v => exact absurd hrow hinit

theorem legalWord_iff_row :
    legalWord w = true ↔ w &&& 0xFFFC#16 = 0x0000#16 ∨ w &&& 0xFF00#16 = 0x4000#16 ∨ w &&& 0xFFFF#16 = 0x8000#16
      ∨ w &&& 0xFF00#16 = 0xC000#16 := by
  simp [legalWord, opcodeTable, opcodeRow]

theorem legalWord_iff_encode : legalWord w = true ↔ ∃ i, encode i = w := by
  constructor
  · intro h
    rcases legalWord_iff_row.mp h with h | h | h | h
    · exact ⟨_, (eq_encode_of_decode_ok (decode_of_sampleRow h)).symm⟩
    · exact ⟨_, (eq_encode_of_decode_ok (decode_of_setsensRow h)).symm⟩
    · exact ⟨_, (eq_encode_of_decode_ok (decode_of_getsensRow h)).symm⟩
    · exact ⟨_, (eq_encode_of_decode_ok (decode_of_initRow h)).symm⟩
  · rintro ⟨i, rfl⟩
    obtain ⟨hrow, hmem⟩ := encodesItsRow i
    exact List.any_eq_true.mpr ⟨_, hmem, beq_iff_eq.mpr hrow⟩

/-! ## How many there are -/

/-- A command is the operands of its row (R63). -/
def Instr.equivOperands : Instr ≃ (Bool × Bool) ⊕ Byte ⊕ Unit ⊕ Byte where
  toFun
    | .sample a b => .inl (a, b)
    | .setsens v => .inr (.inl v)
    | .getsens => .inr (.inr (.inl ()))
    | .init v => .inr (.inr (.inr v))
  invFun
    | .inl (a, b) => .sample a b
    | .inr (.inl v) => .setsens v
    | .inr (.inr (.inl ())) => .getsens
    | .inr (.inr (.inr v)) => .init v
  left_inv i := by cases i <;> rfl
  right_inv
    | .inl _ => rfl
    | .inr (.inl _) => rfl
    | .inr (.inr (.inl _)) => rfl
    | .inr (.inr (.inr _)) => rfl

theorem card_byte : Nat.card Byte = 256 := by
  rw [Nat.card_eq_fintype_card, ← FinEnum.card_eq_fintypeCard, FinEnum.card_bitVec]
  rfl

theorem card_instr : Nat.card Instr = 517 := by
  have hbool : Nat.card Bool = 2 := by rw [Nat.card_eq_fintype_card, Fintype.card_bool]
  calc Nat.card Instr
      = Nat.card ((Bool × Bool) ⊕ Byte ⊕ Unit ⊕ Byte) := Nat.card_congr Instr.equivOperands
    _ = 2 * 2 + (256 + (1 + 256)) := by
        rw [Nat.card_sum, Nat.card_sum, Nat.card_sum, Nat.card_prod, hbool, card_byte, Nat.card_unique]
    _ = 517 := rfl

theorem encode_injective : Function.Injective encode := by
  intro i j h
  exact Except.ok.inj ((decode_encode i).symm.trans (h ▸ decode_encode j))

theorem coe_filter_legalWord :
    (((Finset.range 65536).filter fun n => legalWord (BitVec.ofNat 16 n) = true : Finset Nat) : Set Nat)
      = Set.range fun i => (encode i).toNat := by
  ext n
  simp only [Finset.coe_filter, Finset.mem_range, Set.mem_ofPred_eq, Set.mem_range, legalWord_iff_encode]
  constructor
  · rintro ⟨hn, i, hi⟩
    exact ⟨i, by rw [hi, BitVec.toNat_ofNat, Nat.mod_eq_of_lt hn]⟩
  · rintro ⟨i, rfl⟩
    exact ⟨(encode i).isLt, i, by rw [BitVec.ofNat_toNat, BitVec.setWidth_eq]⟩

/-- Settles O9: the legal words are the words of the commands, and no two commands share one. -/
theorem legalWordsAreFiveHundredSeventeen : Obligations.LegalWordsAreFiveHundredSeventeen := by
  have hinjective : Function.Injective fun i => (encode i).toNat := fun i j h =>
    encode_injective (BitVec.eq_of_toNat_eq h)
  rw [Obligations.LegalWordsAreFiveHundredSeventeen, ← Set.ncard_coe_finset, coe_filter_legalWord,
    Set.ncard_range_of_injective hinjective, card_instr]

/-! ## Illegal words -/

theorem step_of_decode_error {s : State} {r : Request} {rest : List HostEvent} {why : DecodeError}
    (hhost : s.host = .request r :: rest) (h : decode r.cmd = .error why) :
    step s = .refused (.illegalWord r.cmd why) := by
  rw [step_of_request hhost, performRequest_of_decode_error h]

/-- Settles O12: with a reserved bit set the decoder takes the second answer of the word's opcode. -/
theorem illegalWordsAreRefused : Obligations.IllegalWordsAreRefused := by
  intro s r rest hhost
  refine ⟨fun hop hreserved => ?_, fun hop hreserved => ?_, fun hop hreserved => ?_⟩
  · exact step_of_decode_error hhost ((decode_of_op_sample hop).trans (if_neg hreserved))
  · rcases hop with hop | hop
    · exact step_of_decode_error hhost ((decode_of_op_setsens hop).trans (if_neg hreserved))
    · exact step_of_decode_error hhost ((decode_of_op_init hop).trans (if_neg hreserved))
  · exact step_of_decode_error hhost ((decode_of_op_getsens hop).trans (if_neg hreserved))

end Sys2Proof
end

-- ==== Proofs: what each command writes ====
section
/-! The registers a command leaves (R20, R62, R86). -/

namespace Sys2Proof.Machine

/-- A SAMPLE whose cell has no flag completes no step and leaves LAST. -/
theorem flag_of_storeCell_last_ne {c : Byte} {s : State} (h : (storeCell c s).last ≠ s.last) :
    dirField (storeCell c s).stateReg ≠ 0b00#2 := by
  rw [storeCell_stateReg]
  exact fun hflag => h (storeCell_last_of_no_flag hflag s)

/-- Settles O39, by the effect of each command. -/
theorem commandsWriteOnlyTheirRegisters : Obligations.CommandsWriteOnlyTheirRegisters := by
  intro i s t h
  rcases exec_next h with ⟨a, b, c, rfl, -, rfl⟩ | ⟨v, rfl, rfl⟩ | ⟨rfl, rfl⟩ | ⟨v, rfl, rfl⟩
  · exact ⟨by simp, fun hsens => absurd (storeCell_sens c s) hsens, fun _ => .inl ⟨a, b, rfl⟩,
      fun hlast => .inl ⟨a, b, rfl, flag_of_storeCell_last_ne hlast⟩⟩
  · exact ⟨by simp, fun _ => ⟨v, .inl rfl⟩, fun hstate => absurd rfl hstate, fun hlast => absurd rfl hlast⟩
  · exact ⟨by simp, fun hsens => absurd rfl hsens, fun hstate => absurd rfl hstate, fun hlast => absurd rfl hlast⟩
  · exact ⟨by simp, fun _ => ⟨v, .inr rfl⟩, fun _ => .inr ⟨v, rfl⟩, fun _ => .inr ⟨v, rfl⟩⟩

end Sys2Proof.Machine
end

-- ==== Proofs: the assembler ====
section
/-! The words R68 and R69 write with shifts and sums are the words of the commands the lines stand for. -/

namespace Sys2Proof.Machine

/-! ## Words from numbers -/

theorem append_byte_eq_or (hi lo : Byte) : (hi ++ lo : Command) = (hi ++ 0#8 : Command) ||| lo.setWidth 16 := by
  have hlo : lo.setWidth 16 = 0#8 ++ lo := BitVec.setWidth_eq_append (by omega)
  rw [hlo, BitVec.or_append, BitVec.or_zero, BitVec.zero_or]

theorem setWidth_ofNat_byte {v : Nat} (hv : v ≤ 255) : (BitVec.ofNat 8 v).setWidth 16 = BitVec.ofNat 16 v := by
  apply BitVec.eq_of_toNat_eq
  simp only [BitVec.toNat_setWidth, BitVec.toNat_ofNat]
  omega

theorem encode_setsens_ofNat {v : Nat} (hv : v ≤ 255) :
    encode (.setsens (BitVec.ofNat 8 v)) = 0x4000#16 ||| BitVec.ofNat 16 v := by
  rw [← setWidth_ofNat_byte hv]
  exact append_byte_eq_or (0b01#2 ++ 0#6) _

theorem encode_init_ofNat {v : Nat} (hv : v ≤ 255) :
    encode (.init (BitVec.ofNat 8 v)) = 0xC000#16 ||| BitVec.ofNat 16 v := by
  rw [← setWidth_ofNat_byte hv]
  exact append_byte_eq_or (0b11#2 ++ 0#6) _

theorem encode_sample_levels {a b : Nat} (ha : a ≤ 1) (hb : b ≤ 1) :
    encode (.sample (a == 1) (b == 1)) = 0x0000#16 ||| (BitVec.ofNat 16 a <<< 1) ||| BitVec.ofNat 16 b := by
  interval_cases a <;> interval_cases b <;> rfl

theorem encode_sample_symbol {k : Nat} (hk : k ≤ 3) :
    encode (.sample (k / 2 % 2 == 1) (k % 2 == 1)) = 0x0000#16 ||| BitVec.ofNat 16 k := by
  interval_cases k <;> rfl

/-! ## Lines -/

/-- A line that stands for a command gives that command's word, if its operands are in range. -/
theorem assemble_eq_ite {l : AsmLine} {inRange : Prop} [Decidable inRange] (hrange : l.wellFormed = true ↔ inRange)
    {i : Instr} (hinstr : lineInstr (expandLine l) = some i) {word : Command} (hword : inRange → encode i = word) :
    assemble l = if inRange then some (word, lineNow (expandLine l)) else none := by
  by_cases h : inRange
  · rw [assemble, if_pos (hrange.mpr h), if_pos h, hinstr, Option.map_some, hword h]
  · rw [assemble, if_neg (mt hrange.mp h), if_neg h]

/-- Settles O41, line by line: the range check, the command the line stands for, and that command's word. -/
theorem assemblerProducesTheListedWords : Obligations.AssemblerProducesTheListedWords := by
  refine ⟨fun a b t => ?_, fun v => ?_, rfl, fun v => ?_, rfl, fun k t => ?_⟩
  · exact assemble_eq_ite (by simp [AsmLine.wellFormed, and_assoc]) rfl fun ⟨ha, hb, _⟩ => encode_sample_levels ha hb
  · exact assemble_eq_ite (by simp [AsmLine.wellFormed]) rfl encode_setsens_ofNat
  · exact assemble_eq_ite (by simp [AsmLine.wellFormed]) rfl encode_init_ofNat
  · exact assemble_eq_ite (by simp [AsmLine.wellFormed]) rfl fun ⟨hk, _⟩ => encode_sample_symbol hk

end Sys2Proof.Machine
end

-- ==== Proofs: the response of a SAMPLE ====
section
/-! The raw result of a cell and its tier's multiplier as R85 writes them, with comparisons of numbers, and the response
they give together. -/

namespace Sys2Proof.Machine

/-! ## The raw result -/

theorem rawOfByte_eq_ite (c : Byte) :
    rawOfByte c = if dirField c = 0b01#2 then 1 else if dirField c = 0b10#2 then -1 else 0 := by
  rw [rawOfByte]
  generalize dirField c = d
  revert d
  decide

theorem rawOfByte_ne_zero_iff {c : Byte} : rawOfByte c ≠ 0 ↔ dirField c = 0b01#2 ∨ dirField c = 0b10#2 := by
  rw [rawOfByte_eq_ite]
  split_ifs <;> simp [*]

theorem rawOfByte_bounds (c : Byte) : -1 ≤ rawOfByte c ∧ rawOfByte c ≤ 1 := by
  rw [rawOfByte_eq_ite]
  split_ifs <;> decide

/-- Settles O21. -/
theorem directionFlagGivesTheRawResult : Obligations.DirectionFlagGivesTheRawResult := by
  intro c
  refine ⟨?_, ?_, rawOfByte_eq_zero_of_no_flag, ?_⟩ <;>
  · intro hflag
    simp [rawOfByte_eq_ite, hflag]

/-! ## The multiplier -/

theorem fastThreshold_toNat (sens : Byte) : (fastThreshold sens).toNat = sens.toNat / 2 := by
  rw [fastThreshold, BitVec.toNat_setWidth_of_le (by decide), BitVec.toNat_udiv]
  rfl

theorem mediumThreshold_toNat (sens : Byte) : (mediumThreshold sens).toNat = sens.toNat :=
  BitVec.toNat_setWidth_of_le (by decide)

theorem multiplier_tierOf (e : Time) (sens : Byte) :
    multiplier (tierOf e sens) = if e.toNat < sens.toNat / 2 then 3 else if e.toNat < sens.toNat then 2 else 1 := by
  simp only [tierOf, BitVec.lt_def, fastThreshold_toNat, mediumThreshold_toNat]
  split_ifs <;> rfl

theorem multiplier_bounds (tier : SpeedTier) : 1 ≤ multiplier tier ∧ multiplier tier ≤ 3 := by
  cases tier <;> decide

/-! ## The response -/

/-- The 3 bits of a result hold it with its sign (R105; log entry 14). -/
theorem resultByte_eq_ofInt {n : Int} (hlo : -4 ≤ n) (hhi : n < 4) : resultByte n = BitVec.ofInt 8 n := by
  have hsigned : (BitVec.ofInt 3 n).toInt = n := by
    rw [BitVec.toInt_ofInt]
    exact Int.bmod_eq_of_le hlo hhi
  rw [resultByte, BitVec.signExtend, hsigned]

/-- The response is the scaled raw result also where that is 0 and the classifier is not invoked. -/
theorem storeCell_rsp_eq_scaled (c : Byte) (s : State) : (storeCell c s).rsp =
    BitVec.ofInt 8 (rawOfByte c * multiplier (tierOf (elapsed s.now s.last) s.sens)) := by
  obtain ⟨hraw, hraw'⟩ := rawOfByte_bounds c
  obtain ⟨hmul, hmul'⟩ := multiplier_bounds (tierOf (elapsed s.now s.last) s.sens)
  rw [storeCell_rsp]
  split_ifs with hstep
  · exact resultByte_eq_ofInt (by nlinarith) (by nlinarith)
  · rw [not_not.mp hstep, Int.zero_mul]
    rfl

theorem storeCell_last_of_raw_ne_zero {c : Byte} (h : rawOfByte c ≠ 0) (s : State) : (storeCell c s).last = s.now := by
  rw [storeCell_last, if_pos h]

end Sys2Proof.Machine
end

-- ==== Proofs: SAMPLE from a row of the table ====
section
/-! A SAMPLE stores the cell of its row and symbol (R81, R82): the whole next state as R85 gives it, and what follows
for every admitted table (R89) and for the moves between the resting states (R87, R88). -/

namespace Sys2Proof.Machine

open Sys2Proof.Safety

variable {s : State}

/-! ## The next state -/

/-- All that a SAMPLE can change. -/
theorem storeCell_eq_update (c : Byte) (s : State) : storeCell c s =
    { s with
      stateReg := c, last := (storeCell c s).last, rspValid := true, rsp := (storeCell c s).rsp } := by
  unfold storeCell
  split <;> rfl

theorem storeCell_of_no_flag {c : Byte} (h : dirField c = 0b00#2) (s : State) :
    storeCell c s = { s with stateReg := c, rspValid := true, rsp := 0#8 } := by
  rw [storeCell_eq_update, storeCell_last_of_no_flag h, storeCell_rsp_of_no_flag h]

/-- From an id that has a row, a SAMPLE over an admitted table answers a next state. -/
theorem sampleWith_of_id_le_five {rom : Memory} (hrom : rom.admitted = true) (hid : (idField s.stateReg).toNat ≤ 5)
    (a b : Bool) : ∃ c, rom.read (romAddress (rowIndex s.stateReg) (symbol a b)) = some c
      ∧ legalByte c = true ∧ sampleWith rom a b s = .next (storeCell c s) := by
  obtain ⟨c, hread, hcell⟩ := Memory.exists_admittedCell hrom hid (symbol a b)
  exact ⟨c, hread, hcell.legal, sampleWith_of_read_some hrom hread⟩

/-- Settles O18: the cell is the one that the ROM holds for the row and symbol, and the fields that storing it changes
are those of R85. -/
theorem sampleFollowsItsPseudocode : Obligations.SampleFollowsItsPseudocode := by
  constructor
  · intro a b s hid
    obtain ⟨c, hread, -, hsample⟩ := sampleWith_of_id_le_five transitionRom_admitted hid a b
    refine ⟨c, ?_, ?_⟩
    · rw [romAddress_eq, symbol_toNat, ← Nat.add_assoc] at hread
      exact (transitionRom_read _).symm.trans hread
    · rw [exec_sample, hsample, storeCell_eq_update, storeCell_last, storeCell_rsp_eq_scaled, multiplier_tierOf]
      simp only [rawOfByte_ne_zero_iff]
      rw [rawOfByte_eq_ite, elapsed]
  · intro s r rest hhost hrow
    exact stepRunsTheDecodedCommand s r rest _ hhost (decode_of_sampleRow hrow)

/-- A legal STATE has a row, and the cell that replaces it is legal. -/
theorem sampleWith_next_of_stateLegal {rom : Memory} (hrom : rom.admitted = true) (hs : StateLegal s) (a b : Bool) :
    ∃ t, sampleWith rom a b s = .next t ∧ StateLegal t := by
  obtain ⟨hid, -, -⟩ := hs
  obtain ⟨c, -, hlegal, hsample⟩ := sampleWith_of_id_le_five hrom hid a b
  exact ⟨_, hsample, by rwa [stateLegal_iff_legalByte, storeCell_stateReg]⟩

/-- Settles O19: the table of R42 is one of the admitted tables. -/
theorem sampleIsClosedOverEveryAdmittedTable : Obligations.SampleIsClosedOverEveryAdmittedTable :=
  fun _ a b _ hrom hs =>
    ⟨sampleWith_next_of_stateLegal hrom hs a b, sampleWith_next_of_stateLegal transitionRom_admitted hs a b⟩

/-! ## From the resting states -/

/-- SAMPLE over the table of R42, from the row of a known id. -/
theorem exec_sample_of_read {q : BitVec 4} (hs : idField s.stateReg = q) {a b : Bool} {c : Byte}
    (hread : transitionRom.read (romAddress q.toNat (symbol a b)) = some c) :
    exec (.sample a b) s = .next (storeCell c s) := by
  subst hs
  exact sampleWith_of_read_some transitionRom_admitted hread

theorem exec_sample_of_read_no_flag {q : BitVec 4} (hs : idField s.stateReg = q) {a b : Bool} {c : Byte}
    (hread : transitionRom.read (romAddress q.toNat (symbol a b)) = some c) (hflag : dirField c = 0b00#2) :
    exec (.sample a b) s = .next { s with stateReg := c, rspValid := true, rsp := 0#8 } := by
  rw [exec_sample_of_read hs hread, storeCell_of_no_flag hflag]

/-- Settles O27: the cells of the two resting symbols in the rows of START and START_MIRROR. -/
theorem restingSymbolFromRestGivesNoStep : Obligations.RestingSymbolFromRestGivesNoStep := by
  rintro s (hs | hs) <;> exact ⟨exec_sample_of_read_no_flag hs rfl rfl, exec_sample_of_read_no_flag hs rfl rfl⟩

/-- Two SAMPLEs that read an unflagged cell `c` and then, from its row, a flagged cell `d` complete the one step of
`d`. -/
theorem exec_sample_twice_of_reads {q : BitVec 4} (hs : idField s.stateReg = q) {a b a' b' : Bool} {c d : Byte}
    (hfirst : transitionRom.read (romAddress q.toNat (symbol a b)) = some c) (hflag : dirField c = 0b00#2)
    (hsecond : transitionRom.read (romAddress (idField c).toNat (symbol a' b')) = some d) (hraw : rawOfByte d ≠ 0)
    (n m : Time) :
    ∃ (t u : State) (tier : Int),
      exec (.sample a b) { s with now := n } = .next t ∧ t.rspValid = true ∧ t.rsp = 0#8 ∧ t.last = s.last
      ∧ exec (.sample a' b') { t with now := m } = .next u ∧ idField u.stateReg = idField d ∧ u.last = m
      ∧ 1 ≤ tier ∧ tier ≤ 3 ∧ u.rspValid = true ∧ u.rsp = BitVec.ofInt 8 (rawOfByte d * tier) := by
  obtain ⟨hmin, hmax⟩ := multiplier_bounds (tierOf (elapsed m s.last) s.sens)
  exact ⟨_, _, _, exec_sample_of_read_no_flag (s := { s with now := n }) hs hfirst hflag, rfl, rfl, rfl,
    exec_sample_of_read (q := idField c) rfl hsecond, congrArg idField (storeCell_stateReg ..),
    storeCell_last_of_raw_ne_zero hraw _, hmin, hmax, storeCell_rspValid .., storeCell_rsp_eq_scaled ..⟩

/-- Settles O25: on each path, the cell of the `…BEGIN` state and then the flagged cell of the other resting state. -/
theorem halfStepPathsGiveOneStep : Obligations.HalfStepPathsGiveOneStep := by
  intro p hp s n m hs
  simp only [List.mem_cons, List.not_mem_nil, or_false] at hp
  rcases hp with rfl | rfl | rfl | rfl
  · exact exec_sample_twice_of_reads (c := 0x02) (d := 0x13) hs rfl rfl rfl (by decide) n m
  · exact exec_sample_twice_of_reads (c := 0x01) (d := 0x23) hs rfl rfl rfl (by decide) n m
  · exact exec_sample_twice_of_reads (c := 0x04) (d := 0x10) hs rfl rfl rfl (by decide) n m
  · exact exec_sample_twice_of_reads (c := 0x05) (d := 0x20) hs rfl rfl rfl (by decide) n m

end Sys2Proof.Machine
end

-- ==== Proofs: the speed tiers ====
section
/-! The tier windows as comparisons of numbers (R103, R107), the elapsed time modulo 2^32 (R101), and what they give for
the response of a SAMPLE (R104 to R106). -/

namespace Sys2Proof.Machine

variable {s t : State} {a b : Bool}

/-! ## The windows -/

theorem tierOf_eq_ite (e : Time) (sens : Byte) : tierOf e sens =
    if e.toNat < sens.toNat / 2 then .fastest else if e.toNat < sens.toNat then .medium else .slow := by
  simp only [tierOf, BitVec.lt_def, fastThreshold_toNat, mediumThreshold_toNat]

section Windows

variable {e : Time} {sens : Byte}

theorem tierOf_eq_fastest_iff : tierOf e sens = .fastest ↔ e.toNat < sens.toNat / 2 := by
  rw [tierOf_eq_ite]
  split_ifs <;> simp [*]

theorem tierOf_eq_medium_iff : tierOf e sens = .medium ↔ sens.toNat / 2 ≤ e.toNat ∧ e.toNat < sens.toNat := by
  rw [tierOf_eq_ite]
  split_ifs <;> simp <;> omega

theorem tierOf_eq_slow_iff : tierOf e sens = .slow ↔ sens.toNat ≤ e.toNat := by
  rw [tierOf_eq_ite]
  split_ifs <;> simp <;> omega

end Windows

/-- Settles O28. -/
theorem classifierFollowsTheTierWindows : Obligations.ClassifierFollowsTheTierWindows := by
  refine ⟨fun e sens => ⟨tierOf_eq_fastest_iff, tierOf_eq_medium_iff, tierOf_eq_slow_iff⟩, ?_⟩
  intro raw now last sens
  rw [speedScale, multiplier_tierOf, elapsed]

/-- Settles O29: each row of R107 lists SENS div 2 and SENS, so its windows are those of R103. -/
theorem referenceTierWindows : Obligations.ReferenceTierWindows := by
  intro p hp
  have hrow : p.1.toNat / 2 = p.2.1 ∧ p.1.toNat = p.2.2 := by
    simp only [List.mem_cons, List.not_mem_nil, or_false] at hp
    rcases hp with rfl | rfl | rfl | rfl | rfl | rfl <;> exact ⟨rfl, rfl⟩
  obtain ⟨hfast, hmed⟩ := hrow
  rw [← hfast, ← hmed]
  exact ⟨fastThreshold_toNat _, mediumThreshold_toNat _,
    fun e => ⟨tierOf_eq_fastest_iff, tierOf_eq_medium_iff, tierOf_eq_slow_iff⟩⟩

/-! ## The elapsed time -/

theorem elapsed_add_left (last d : Time) : elapsed (last + d) last = d := add_sub_cancel_left last d

theorem elapsed_sub_left (last d : Time) : elapsed (last - d) last = -d := sub_sub_cancel_left last d

theorem elapsed_add_add (now last d : Time) : elapsed (now + d) (last + d) = elapsed now last :=
  add_sub_add_right_eq_sub now last d

theorem elapsed_zero_right (now : Time) : elapsed now 0#32 = now := sub_zero now

/-- Settles O30. -/
theorem elapsedToleratesWrapAndBackwardClock : Obligations.ElapsedToleratesWrapAndBackwardClock := by
  constructor
  · intro last distance hlt
    rw [elapsed_add_left, BitVec.toNat_ofNat, Nat.mod_eq_of_lt hlt]
  · intro last d sens hpos
    have hback : (elapsed (last - d) last).toNat = 2 ^ 32 - d.toNat := by
      rw [elapsed_sub_left, BitVec.toNat_neg, Nat.mod_eq_of_lt (by omega)]
    refine ⟨hback, fun hle => ?_⟩
    rw [tierOf_eq_slow_iff, hback]
    have := sens.isLt
    omega

/-! ## A shift of the clock -/

/-- What a SAMPLE of the machine has done when it answers a next state. -/
theorem exec_sample_next (h : exec (.sample a b) s = .next t) :
    ∃ c, transitionRom.read (romAddress (rowIndex s.stateReg) (symbol a b)) = some c ∧ t = storeCell c s :=
  (sampleWith_next (rom := transitionRom) h).2

/-- The state with port `now` and LAST moved by the same amount, modulo 2^32. -/
def State.shiftClock (s : State) (d : Time) : State := { s with now := s.now + d, last := s.last + d }

theorem storeCell_shiftClock (c : Byte) (s : State) (d : Time) :
    storeCell c (s.shiftClock d) = (storeCell c s).shiftClock d := by
  have hrsp : (storeCell c (s.shiftClock d)).rsp = (storeCell c s).rsp := by
    simp only [storeCell_rsp, State.shiftClock, elapsed_add_add]
  have hlast : (storeCell c (s.shiftClock d)).last = (storeCell c s).last + d := by
    simp only [storeCell_last, State.shiftClock, ite_add]
  rw [storeCell_eq_update c (s.shiftClock d), hrsp, hlast, storeCell_eq_update c s]
  rfl

/-- Settles O31: the shifted SAMPLE reads the same cell, and storing it reads only the elapsed time. -/
theorem clockShiftIsInvisible : Obligations.ClockShiftIsInvisible := by
  intro a b s t d h
  obtain ⟨c, hread, rfl⟩ := exec_sample_next h
  calc exec (.sample a b) (s.shiftClock d)
      = .next (storeCell c (s.shiftClock d)) := sampleWith_of_read_some transitionRom_admitted hread
    _ = .next ((storeCell c s).shiftClock d) := by rw [storeCell_shiftClock]

/-! ## The response -/

/-- R104, R105: the response is the new direction flag's raw result, scaled by the tier of the time since LAST. -/
theorem rsp_of_exec_sample (h : exec (.sample a b) s = .next t) :
    t.rsp = BitVec.ofInt 8 (rawOfByte t.stateReg * multiplier (tierOf (elapsed s.now s.last) s.sens)) := by
  obtain ⟨c, -, rfl⟩ := exec_sample_next h
  rw [storeCell_rsp_eq_scaled, storeCell_stateReg]

theorem rspValid_of_exec_sample (h : exec (.sample a b) s = .next t) : t.rspValid = true := by
  obtain ⟨c, -, rfl⟩ := exec_sample_next h
  exact storeCell_rspValid c s

section Scaled

variable {c : Byte} {tier : SpeedTier}

theorem rawOfByte_pos_iff : 0 < rawOfByte c ↔ dirField c = 0b01#2 := by
  rw [rawOfByte_eq_ite]
  split_ifs <;> simp [*]

theorem rawOfByte_neg_iff : rawOfByte c < 0 ↔ dirField c = 0b10#2 := by
  rw [rawOfByte_eq_ite]
  split_ifs <;> simp [*]

theorem multiplier_pos (tier : SpeedTier) : 0 < multiplier tier := (multiplier_bounds tier).1

/-- A tier scales the raw result and keeps its sign, which is the direction flag's. -/
theorem scaled_pos_iff : 0 < rawOfByte c * multiplier tier ↔ dirField c = 0b01#2 := by
  rw [mul_pos_iff_of_pos_right (multiplier_pos tier), rawOfByte_pos_iff]

theorem scaled_neg_iff : rawOfByte c * multiplier tier < 0 ↔ dirField c = 0b10#2 := by
  rw [Int.mul_comm, ← smul_eq_mul, smul_neg_iff_of_pos_left (multiplier_pos tier), rawOfByte_neg_iff]

theorem scaled_bounds (c : Byte) (tier : SpeedTier) :
    -3 ≤ rawOfByte c * multiplier tier ∧ rawOfByte c * multiplier tier ≤ 3 := by
  obtain ⟨hraw, hraw'⟩ := rawOfByte_bounds c
  obtain ⟨hmul, hmul'⟩ := multiplier_bounds tier
  constructor <;> nlinarith

/-- A raw result other than 0 is a sign, so the multiplier is the magnitude. -/
theorem natAbs_scaled (h : rawOfByte c * multiplier tier ≠ 0) :
    (rawOfByte c * multiplier tier).natAbs = (multiplier tier).natAbs := by
  have hraw : rawOfByte c ≠ 0 := left_ne_zero_of_mul h
  have hunit : (rawOfByte c).natAbs = 1 := by
    have := rawOfByte_bounds c
    omega
  rw [Int.natAbs_mul, hunit, Nat.one_mul]

theorem natAbs_multiplier_iffs (tier : SpeedTier) :
    ((multiplier tier).natAbs = 3 ↔ tier = .fastest) ∧ ((multiplier tier).natAbs = 2 ↔ tier = .medium)
    ∧ ((multiplier tier).natAbs = 1 ↔ tier = .slow) := by
  cases tier <;> decide

end Scaled

theorem resultByte_toInt {n : Int} (hlo : -3 ≤ n) (hhi : n ≤ 3) : (resultByte n).toInt = n := by
  rw [resultByte_eq_ofInt (by omega) (by omega), BitVec.toInt_ofInt]
  exact Int.bmod_eq_of_le (by omega) (by omega)

/-- Settles O32: the result is the raw result of the flag times the multiplier of the tier. -/
theorem sampleResultIsDirectionTimesTier : Obligations.SampleResultIsDirectionTimesTier := by
  refine ⟨?_, fun result => resultByte_toInt, rfl, rfl, rfl, rfl, rfl, rfl, rfl⟩
  intro a b s t h
  have hrsp := rsp_of_exec_sample h
  generalize tierOf (elapsed s.now s.last) s.sens = tier at hrsp ⊢
  obtain ⟨hlo, hhi⟩ := scaled_bounds t.stateReg tier
  refine ⟨rspValid_of_exec_sample h, rawOfByte t.stateReg * multiplier tier, hlo, hhi, ?_, scaled_pos_iff,
    scaled_neg_iff, fun hne => ?_⟩
  · rw [hrsp, resultByte_eq_ofInt (by omega) (by omega)]
  · rw [natAbs_scaled hne]
    exact natAbs_multiplier_iffs tier

/-! ## LAST = 0 and SENS = 0 -/

/-- Settles O33: with LAST at 0 the elapsed time is the value of `now`. -/
theorem firstStepIsTimedAgainstZero : Obligations.FirstStepIsTimedAgainstZero := by
  intro a b s t hlast h
  have hrsp {raw : Int} (hraw : rawOfByte t.stateReg = raw) {tier : SpeedTier} (htier : tierOf s.now s.sens = tier) :
      t.rsp = BitVec.ofInt 8 (raw * multiplier tier) := by
    rw [rsp_of_exec_sample h, hlast, elapsed_zero_right, hraw, htier]
  obtain ⟨hcw, hccw, -⟩ := directionFlagGivesTheRawResult t.stateReg
  refine ⟨fun hflag => ?_, fun hflag => ?_⟩
  · exact ⟨fun hslow => hrsp (hcw hflag) (tierOf_eq_slow_iff.mpr hslow),
      fun hlo hhi => hrsp (hcw hflag) (tierOf_eq_medium_iff.mpr ⟨hlo, hhi⟩),
      fun hfast => hrsp (hcw hflag) (tierOf_eq_fastest_iff.mpr hfast)⟩
  · exact ⟨fun hslow => hrsp (hccw hflag) (tierOf_eq_slow_iff.mpr hslow),
      fun hlo hhi => hrsp (hccw hflag) (tierOf_eq_medium_iff.mpr ⟨hlo, hhi⟩),
      fun hfast => hrsp (hccw hflag) (tierOf_eq_fastest_iff.mpr hfast)⟩

/-- With SENS = 0 both faster windows are empty. -/
theorem tierOf_sens_zero (e : Time) : tierOf e 0#8 = .slow := tierOf_eq_slow_iff.mpr (Nat.zero_le _)

/-- Settles O34. -/
theorem zeroSensitivityGivesMagnitudeOne : Obligations.ZeroSensitivityGivesMagnitudeOne := by
  intro a b s t hsens h
  have hrsp : t.rsp = BitVec.ofInt 8 (rawOfByte t.stateReg * 1) := by
    rw [rsp_of_exec_sample h, hsens, tierOf_sens_zero, multiplier]
  rw [hrsp, Int.mul_one, rawOfByte_eq_ite]
  split_ifs <;> rfl

end Sys2Proof.Machine
end

-- ==== Proofs: the configuration commands ====
section
/-! SETSENS, GETSENS and INIT: the whole next state of each (R120 to R122), the words that present it, and what the next
SAMPLE or GETSENS sees of it (R164). -/

namespace Sys2Proof.Machine

variable {s t : State} {v : Byte}

/-! ## The next states -/

theorem exec_setsens_eq_update (v : Byte) (s : State) :
    exec (.setsens v) s = .next { s with sens := v, rspValid := false } := rfl

theorem exec_getsens_eq_update (s : State) : exec .getsens s = .next { s with rspValid := true, rsp := s.sens } := rfl

theorem exec_init_eq_update (v : Byte) (s : State) :
    exec (.init v) s = .next { s with stateReg := 0x00#8, sens := v, last := 0#32, rspValid := false } := rfl

/-! ## What SAMPLE reads -/

/-- SAMPLE does not see the response of an earlier command. -/
theorem sampleWith_respond (rom : Memory) (a b : Bool) (answer : Option Byte) (s : State) :
    sampleWith rom a b (s.respond answer) = sampleWith rom a b s := by
  cases answer with
  | none => rfl
  | some response => rfl

/-- Without a step the classifier is not invoked, so SENS is only carried along. -/
theorem storeCell_writeSens_of_no_flag {c : Byte} (h : dirField c = 0b00#2) (v : Byte) (s : State) :
    storeCell c (s.writeSens v) = (storeCell c s).writeSens v := by
  rw [storeCell_of_no_flag h, storeCell_of_no_flag h]
  rfl

theorem exec_sample_writeSens_of_no_flag {a b : Bool} (h : exec (.sample a b) s = .next t)
    (hflag : dirField t.stateReg = 0b00#2) (v : Byte) :
    exec (.sample a b) (s.writeSens v) = .next (t.writeSens v) := by
  obtain ⟨c, hread, rfl⟩ := exec_sample_next h
  rw [storeCell_stateReg] at hflag
  calc exec (.sample a b) (s.writeSens v)
      = .next (storeCell c (s.writeSens v)) := sampleWith_of_read_some transitionRom_admitted hread
    _ = .next ((storeCell c s).writeSens v) := by rw [storeCell_writeSens_of_no_flag hflag]

/-! ## What GETSENS reads -/

theorem sens_of_exec_setsens_or_init (h : exec (.setsens v) s = .next t ∨ exec (.init v) s = .next t) :
    t.sens = v := by
  rcases h with h | h
  · cases h
    rfl
  · cases h
    rfl

/-- GETSENS reads SENS and does not write it, so a second one changes nothing more. -/
theorem exec_getsens_again (h : exec .getsens s = .next t) : exec .getsens t = .next t := by
  cases h
  rfl

/-! ## The three commands -/

/-- Settles O35: SETSENS is a write of SENS and a response of none, and SAMPLE does not see the response. -/
theorem setsensWritesTheSensitivity : Obligations.SetsensWritesTheSensitivity := by
  refine ⟨exec_setsens_eq_update, fun s r rest hhost hrow => ?_, fun v a b s => ?_, fun v a b s t h hflag => ?_⟩
  · exact (stepRunsTheDecodedCommand s r rest _ hhost (decode_of_setsensRow hrow)).trans (exec_setsens_eq_update ..)
  · exact ⟨_, exec_setsens_eq_update v s, sampleWith_respond transitionRom a b none (s.writeSens v)⟩
  · exact exec_sample_writeSens_of_no_flag h hflag v

/-- Settles O36: what GETSENS responds is SENS, whichever command or reset wrote it. -/
theorem getsensRespondsWithTheSensitivity : Obligations.GetsensRespondsWithTheSensitivity := by
  refine ⟨exec_getsens_eq_update, fun s r rest hhost hrow => ?_, fun v s u h => ?_, fun s => ?_⟩
  · exact (stepRunsTheDecodedCommand s r rest _ hhost (decode_of_getsensRow hrow)).trans (exec_getsens_eq_update _)
  · have hgetsens := exec_getsens_eq_update u
    exact ⟨_, hgetsens, rfl, sens_of_exec_setsens_or_init h, exec_getsens_again hgetsens⟩
  · exact ⟨_, exec_getsens_eq_update s.resetBlock, rfl, State.resetBlock_sens s⟩

/-- Settles O37. -/
theorem initConstructsTheDecoder : Obligations.InitConstructsTheDecoder := by
  refine ⟨exec_init_eq_update, fun s r rest hhost hrow => ?_⟩
  exact (stepRunsTheDecodedCommand s r rest _ hhost (decode_of_initRow hrow)).trans (exec_init_eq_update ..)

end Sys2Proof.Machine
end

-- ==== Proofs: a host that keeps its contract ====
section
/-! From a legal STATE every command answers a next state (R24, R140), and a lawful host presents no word that the
decoder refuses. So each step of a lawful host's run, and with it the whole run, answers a next state. -/

namespace Sys2Proof.Machine

open Sys2Proof.Safety

variable {s t : State}

/-! ## Commands -/

theorem exec_host {i : Instr} (h : exec i s = .next t) : t.host = s.host := by
  obtain ⟨⟨-, hhost, -⟩, -⟩ := commandsWriteOnlyTheirRegisters i s t h
  exact hhost

/-- Only SAMPLE can stop at all, and from a legal STATE its row is in the table. -/
theorem exec_next_of_stateLegal (hs : StateLegal s) (i : Instr) : ∃ t, exec i s = .next t ∧ StateLegal t := by
  cases i with
  | sample a b => exact sampleWith_next_of_stateLegal transitionRom_admitted hs a b
  | setsens v => exact ⟨_, exec_setsens_eq_update v s, hs⟩
  | getsens => exact ⟨_, exec_getsens_eq_update s, hs⟩
  | init v => exact ⟨_, exec_init_eq_update v s, stateLegal_of_stateReg_eq_zero rfl⟩

/-! ## Events and steps -/

theorem performRequest_next_of_legalWord (hs : StateLegal s) {r : Request} (hword : legalWord r.cmd = true) :
    ∃ t, performRequest r s = .next t ∧ StateLegal t ∧ t.host = s.host := by
  obtain ⟨i, hi⟩ := legalWord_iff_encode.mp hword
  have hdecode : decode r.cmd = .ok i := hi ▸ decode_encode i
  obtain ⟨t, hexec, ht⟩ := exec_next_of_stateLegal (s := s.presentNow r.now) hs i
  exact ⟨t, (performRequest_of_decode_ok hdecode s).trans hexec, ht,
    exec_host (s := s.presentNow r.now) hexec⟩

theorem performEvent_next_of_lawful (hs : StateLegal s) {e : HostEvent} (he : lawfulEvent e = true) :
    ∃ t, performEvent e s = .next t ∧ StateLegal t ∧ t.host = s.host := by
  cases e with
  | quiet => exact ⟨s, rfl, hs, rfl⟩
  | request r => exact performRequest_next_of_legalWord hs he
  | overlap r q => cases he
  | reset presented => exact ⟨s.resetBlock, rfl, stateLegal_of_stateReg_eq_zero rfl, rfl⟩
  | powerLoss => cases he

theorem step_next_of_lawful (hs : StateLegal s) (hlawful : s.host.all lawfulEvent = true) :
    ∃ t, step s = .next t ∧ StateLegal t ∧ t.host.all lawfulEvent = true := by
  rcases step_cases s with ⟨-, hidle⟩ | ⟨e, rest, hhost, hevent⟩
  · exact ⟨s, hidle, hs, hlawful⟩
  · rw [hhost, List.all_cons, Bool.and_eq_true] at hlawful
    obtain ⟨he, hrest⟩ := hlawful
    obtain ⟨t, hnext, ht, hthost⟩ := performEvent_next_of_lawful (s := s.setHost rest) hs he
    refine ⟨t, hevent.trans hnext, ht, ?_⟩
    rwa [hthost, State.setHost_host]

/-- Settles O6, by induction on the length of the run: a step keeps both the legal STATE and the lawful host. -/
theorem lawfulHostIsNeverStopped : Obligations.LawfulHostIsNeverStopped := by
  intro k
  induction k with
  | zero => exact fun s hs _ => ⟨s, run_zero, hs⟩
  | succ k ih =>
    intro s hs hlawful
    obtain ⟨t, hstep, ht, htlawful⟩ := step_next_of_lawful hs hlawful
    rw [run_succ_next hstep]
    exact ih t ht htlawful

end Sys2Proof.Machine
end

-- ==== Proofs: who reads the clock ====
section
/-! SAMPLE reads port `now` only for the time of a completed step (R100), and no other command reads it (R70, R146). -/

namespace Sys2Proof.Machine

theorem storeCell_presentNow_of_no_flag {c : Byte} (h : dirField c = 0b00#2) (n : Time) (s : State) :
    storeCell c (s.presentNow n) = (storeCell c s).presentNow n := by
  rw [storeCell_of_no_flag h, storeCell_of_no_flag h]
  rfl

/-- Settles O22: a SAMPLE reads the same cell whatever the clock, and storing a cell without a flag only carries the
clock value along; so does every other command. -/
theorem clockIsReadOnlyByACompletedStep : Obligations.ClockIsReadOnlyByACompletedStep := by
  intro i s t n h hnoStep
  cases i with
  | sample a b =>
    obtain ⟨c, hread, rfl⟩ := exec_sample_next h
    have hflag : dirField c = 0b00#2 := by simpa using hnoStep a b rfl
    calc exec (.sample a b) (s.presentNow n)
        = .next (storeCell c (s.presentNow n)) := sampleWith_of_read_some transitionRom_admitted hread
      _ = .next ((storeCell c s).presentNow n) := by rw [storeCell_presentNow_of_no_flag hflag]
  | setsens v => cases h; rfl
  | getsens => cases h; rfl
  | init v => cases h; rfl

end Sys2Proof.Machine
end

-- ==== Proofs: the idle block ====
section
/-! A step with no request and no reset (R150). -/

namespace Sys2Proof.Machine

/-- Settles O2: an empty list idles, and performing a quiet event answers the state it was taken from. -/
theorem idleStepKeepsTheState : Obligations.IdleStepKeepsTheState := by
  refine ⟨fun s => step_of_host_nil, fun s rest hhost => ?_⟩
  calc step s
      = performEvent .quiet (s.setHost rest) := step_of_host_cons hhost
    _ = .next { s with host := rest } := rfl

end Sys2Proof.Machine
end

-- ==== Proofs: reset and overlapping requests ====
section
/-! The hardware reset with the values of R160 written out, on its event (R144) and beside INIT 100 (R161), and the
refusal of overlapping requests (R167). -/

namespace Sys2Proof.Machine

theorem resetBlock_eq_update (s : State) :
    s.resetBlock =
      { s with stateReg := 0x00#8, sens := 100#8, last := 0#32, rspValid := false, rsp := 0x00#8 } := rfl

/-- R144: a reset event resets the block, whatever commands are presented with it (log entry 9). -/
theorem performEvent_reset (presented : List Request) (s : State) :
    performEvent (.reset presented) s = .next s.resetBlock := rfl

/-- R167: the refusal does not depend on the two requests or on the state (log entry 8). -/
theorem performEvent_overlap (r q : Request) (s : State) :
    performEvent (.overlap r q) s = .refused .overlappingRequests := rfl

/-- Settles O1: the reset state holds the values of R160, and a reset event, once taken off the host's list, resets the
block. -/
theorem resetLeavesTheSpecValues : Obligations.ResetLeavesTheSpecValues := by
  refine ⟨⟨rfl, rfl, rfl, rfl, rfl⟩, fun s presented rest hhost => ?_⟩
  calc step s
      = performEvent (.reset presented) (s.setHost rest) := step_of_host_cons hhost
    _ = .next (s.setHost rest).resetBlock := performEvent_reset presented _
    _ = .next { s with
          host := rest, stateReg := 0x00#8, sens := 100#8, last := 0#32, rspValid := false, rsp := 0x00#8 } :=
      congrArg _ (resetBlock_eq_update (s.setHost rest))

/-- Settles O13: the step performs the overlap event, which is refused. -/
theorem overlapIsRefused : Obligations.OverlapIsRefused := by
  intro s r q rest hhost
  calc step s
      = performEvent (.overlap r q) (s.setHost rest) := step_of_host_cons hhost
    _ = .refused .overlappingRequests := performEvent_overlap r q _

/-- Settles O38: INIT writes the registers and the latch rsp_valid that a reset writes, with the same values when its
operand is 100, and leaves rsp (R122, R161). -/
theorem initHundredEqualsReset : Obligations.InitHundredEqualsReset := by
  intro s
  rw [exec_init_eq_update, resetBlock_eq_update]

end Sys2Proof.Machine
end
